-- ==== Sys2Proof/Word.lean ====
section
/-!
DEFINITION. The widths of the ipc_sim core (00_scope.md R6, R8): data is 8 bits, addresses are 16 bits.
-/

namespace Sys2Proof

/-- A register, the accumulator, a memory cell, an opcode byte or an operand byte: an unsigned 8-bit value (R8). -/
abbrev Byte := BitVec 8

/-- A program-counter value, a MAR value or an address of either store: an unsigned 16-bit value (R6, R8). -/
abbrev Addr := BitVec 16

/-- The index given to the register-file port, 0 to 255 (10_state.md R21). An instruction produces only 0 to 7
(`Instr.wellFormed`). -/
abbrev RegIndex := BitVec 8

end Sys2Proof
end

