-- ==== Sys2Proof/Config.lean ====
section
/-!
DEFINITION. The four named parameters of the model (00_scope.md R7). The two that an implementation fixes are constants
without a body, so that no proof can use a value of theirs. The two that are values at construction are arguments of
`Machine.construct`, and here are the values that `Machine.State.reset` takes for them.
-/

namespace Sys2Proof

/-- The domain of the parameter `PcOverflow` (R7): what a program-counter increment from 0xFFFF does. -/
inductive PcOverflow
  | wrap
  | fault
  deriving DecidableEq, Repr, Inhabited

/-- The parameter `PcOverflow` (R7, R27, D5). A free value: nothing constrains it.
DESIGN CHOICE (log 1), safe: a claim holds for both values. -/
opaque Config.pcOverflow : PcOverflow

/-- The parameter `RorMsbWhenCarry` (R7, R105, D6): bit 7 of the `ror` result when the carry was 1 before. A free
value: nothing constrains it. DESIGN CHOICE (log 2), unsafe only if the reading that the spec rejects in N13 is true. -/
opaque Config.rorMsbWhenCarry : Bool

/-- The value of the parameter `InitAcc` that `State.reset` takes. DESIGN CHOICE (log 3), unsafe: the spec gives none
(R46, N4). -/
def Config.initAcc : Byte := 0#8

/-- The carry of the parameter `InitFlags` that `State.reset` takes. DESIGN CHOICE (log 4), unsafe (R46, N4). -/
def Config.initCarry : Bool := false

/-- The zero flag of the parameter `InitFlags` that `State.reset` takes. DESIGN CHOICE (log 4), unsafe (R46, N4). -/
def Config.initZero : Bool := false

/-- The parity flag of the parameter `InitFlags` that `State.reset` takes. DESIGN CHOICE (log 4), unsafe (R46, N4). -/
def Config.initParity : Bool := false

/-- The sign flag of the parameter `InitFlags` that `State.reset` takes. DESIGN CHOICE (log 4), unsafe (R46, N4). -/
def Config.initSign : Bool := false

end Sys2Proof
end

