-- ==== Sys2Proof/Machine/State.lean ====
section
/-!
DEFINITION. The state of the core between steps (10_state.md R36), the model's own output-port field, and the ways a
step can stop.
-/

namespace Sys2Proof.Machine

/-- The register file: eight 8-bit slots (R20). The fields stand in the order of their indices 0 to 7 (D13, log 12). -/
structure RegFile where
  /-- Index 0, general. -/
  r0 : Byte
  /-- Index 1, general. -/
  r1 : Byte
  /-- Index 2, general, and the low byte that call-save writes (R141). -/
  r2 : Byte
  /-- Index 3, general, and the high byte that call-save writes (R141). -/
  r3 : Byte
  /-- Index 4, plain storage, not coupled to the flags (R23, log 8). -/
  sf : Byte
  /-- Index 5, plain storage, no hardware role (R24, log 9). -/
  sp : Byte
  /-- Index 6, the low byte of the MAR (R30). -/
  marl : Byte
  /-- Index 7, the high byte of the MAR (R30). -/
  marh : Byte
  deriving DecidableEq, Repr

/-- The four independent flags (R31). -/
structure Flags where
  /-- C. -/
  carry : Bool
  /-- Z. -/
  zero : Bool
  /-- P, bit 0 of the last ALU result (R33). -/
  parity : Bool
  /-- S, bit 7 of the last ALU result (R33). -/
  sign : Bool
  deriving DecidableEq, Repr

/-- One 65536-byte store (R35): the bytes that are not 0x00, by rising address. `Memory.wf` states the form. -/
abbrev Memory := List Host.Cell

/-- The machine: R36's list, and the output port of the last step. -/
structure State where
  /-- The accumulator (R25). -/
  acc : Byte
  /-- The register file (R20). -/
  regs : RegFile
  /-- The program counter (R26). -/
  pc : Addr
  /-- The flags (R31). -/
  flags : Flags
  /-- The program store PROG (R35). -/
  prog : Memory
  /-- The data store DATA (R35). -/
  data : Memory
  /-- The `continue` port of the last step (R40): the MODEL's own field. No instruction reads it, so it is no halted
  latch (R161, log 5, log 10). -/
  continueOut : Bool
  deriving DecidableEq, Repr

/-- What stops the machine. -/
inductive Fault
  /-- `ModelFault(PcOverflow)` (R172). Raised by `pcInc` at pc = 0xFFFF when the parameter `PcOverflow` is `Fault`: by
  the fetch of any instruction and by the operand fetch of code 22. Safe: nothing is proved of what follows. -/
  | pcOverflow
  deriving DecidableEq, Repr

/-- What the model refuses. -/
inductive Refusal
  /-- An instruction that `exec` gives no meaning. Raised by no arm: every instruction has its meaning. Safe. -/
  | notModelled (mnemonic : String)
  deriving DecidableEq, Repr

/-- The core as constructed from the empty image (R46, R190, R191), with `InitAcc` and `InitFlags` at the values of
Config (log 3, log 4) and the output port at true (log 5). A program is loaded from outside the machine (log 6). -/
def State.reset : State where
  acc := Config.initAcc
  regs := ⟨0#8, 0#8, 0#8, 0#8, 0#8, 0#8, 0#8, 0#8⟩
  pc := 0#16
  flags := ⟨Config.initCarry, Config.initZero, Config.initParity, Config.initSign⟩
  prog := []
  data := []
  continueOut := true

end Sys2Proof.Machine
end

