-- ==== Sys2Proof/Machine/Ops.lean ====
section
/-!
DEFINITION. The named operations on the state (00_scope.md R9): the stores, the register-file port, the program-counter
increment, the updates, and the end of a step. The core has no exception, so there is no exception entry and no return
from one (60_exceptions.md R170, R175, R176).
-/

namespace Sys2Proof.Machine

/-- The three outcomes of a step, for this machine. -/
abbrev Result := Host.Outcome State Fault Refusal

/-- Go on with `f` from the next state, if there is one. -/
def andThen (o : Result) (f : State → Result) : Result :=
  match o with
  | .next s => f s
  | .fault r => .fault r
  | .refused r => .refused r

/-! ## The stores (20_memory.md) -/

/-- What an address reads as when no cell is listed: 0x00, the construction value of the data store and the padding of
the program store (R46, R191). -/
def Memory.unlisted : Byte := 0#8

/-- The size of each store (R6, R35). -/
def Memory.size : Nat := 65536

/-- The byte at a cell number. -/
def Memory.lookup : Memory → Nat → Byte
  | [], _ => Memory.unlisted
  | (b, v) :: rest, a => if b = a then v else Memory.lookup rest a

/-- The cells at every other cell number. -/
def Memory.erase : Memory → Nat → Memory
  | [], _ => []
  | (b, v) :: rest, a => if b = a then Memory.erase rest a else (b, v) :: Memory.erase rest a

/-- A cell put before the first cell of a higher number. -/
def Memory.insert : Memory → Nat → Byte → Memory
  | [], a, v => [(a, v)]
  | (b, w) :: rest, a, v => if a < b then (a, v) :: (b, w) :: rest else (b, w) :: Memory.insert rest a v

/-- `MemRead(a, 1)` on one store: total, no address faults (R51). -/
def Memory.read (m : Memory) (a : Addr) : Byte := Memory.lookup m a.toNat

/-- `MemWrite(a, 1, v)` on one store: total (R51). Writing 0x00 removes the cell. -/
def Memory.write (m : Memory) (a : Addr) (v : Byte) : Memory :=
  if v = Memory.unlisted then Memory.erase m a.toNat
  else Memory.insert (Memory.erase m a.toNat) a.toNat v

/-- The cells of the image bytes that stand at cell numbers from `a` on. -/
def Memory.ofImageFrom (a : Nat) : List Byte → Memory
  | [] => []
  | v :: rest =>
    if a < Memory.size then
      if v = Memory.unlisted then Memory.ofImageFrom (a + 1) rest
      else (a, v) :: Memory.ofImageFrom (a + 1) rest
    else []

/-- A store that holds an image at address 0, zero-padded or truncated to 65536 bytes (R191). -/
def Memory.ofImage (image : List Byte) : Memory := Memory.ofImageFrom 0 image

/-- The canonical form from cell number `lo` on: rising, inside the store, no cell that reads as an unlisted one. -/
def Memory.wfFrom (lo : Nat) : Memory → Bool
  | [] => true
  | (a, v) :: rest =>
    decide (lo ≤ a) && decide (a < Memory.size) && decide (v ≠ Memory.unlisted) && Memory.wfFrom (a + 1) rest

/-- The canonical form of a store. -/
def Memory.wf (m : Memory) : Bool := Memory.wfFrom 0 m

/-! ## The register file (10_state.md R20, R21) -/

/-- The port's `read(index)`: 0 for an index of 8 or more (R21). -/
def RegFile.read (rf : RegFile) (i : RegIndex) : Byte :=
  match i.toNat with
  | 0 => rf.r0
  | 1 => rf.r1
  | 2 => rf.r2
  | 3 => rf.r3
  | 4 => rf.sf
  | 5 => rf.sp
  | 6 => rf.marl
  | 7 => rf.marh
  | _ => 0#8

/-- The port's `write(index, value)`: nothing for an index of 8 or more (R21). -/
def RegFile.write (rf : RegFile) (i : RegIndex) (v : Byte) : RegFile :=
  match i.toNat with
  | 0 => { rf with r0 := v }
  | 1 => { rf with r1 := v }
  | 2 => { rf with r2 := v }
  | 3 => { rf with r3 := v }
  | 4 => { rf with sf := v }
  | 5 => { rf with sp := v }
  | 6 => { rf with marl := v }
  | 7 => { rf with marh := v }
  | _ => rf

/-! ## The updates of the state -/

/-- `acc <- v` (R9). -/
def State.setAcc (s : State) (v : Byte) : State := { s with acc := v }

/-- The whole register file replaced; used through `State.writeReg` only. -/
def State.setRegs (s : State) (rf : RegFile) : State := { s with regs := rf }

/-- `pc <- target` (R9). -/
def State.setPc (s : State) (target : Addr) : State := { s with pc := target }

/-- The four flags written. -/
def State.setFlags (s : State) (f : Flags) : State := { s with flags := f }

/-- The program store replaced: construction only (R59). -/
def State.setProg (s : State) (m : Memory) : State := { s with prog := m }

/-- The data store replaced; used through `State.writeData` only. -/
def State.setData (s : State) (m : Memory) : State := { s with data := m }

/-- The `continue` port driven (R40). -/
def State.report (s : State) (b : Bool) : State := { s with continueOut := b }

/-! ## Access to registers and stores in a state (R9) -/

/-- `reg[i]`. -/
def State.readReg (s : State) (i : RegIndex) : Byte := s.regs.read i

/-- `reg[i] <- v`. -/
def State.writeReg (s : State) (i : RegIndex) (v : Byte) : State := s.setRegs (s.regs.write i v)

/-- `MemRead_P(a, 1)` (R51). -/
def State.readProg (s : State) (a : Addr) : Byte := Memory.read s.prog a

/-- `MemRead_D(a, 1)` (R51). -/
def State.readData (s : State) (a : Addr) : Byte := Memory.read s.data a

/-- `MemWrite_D(a, 1, v)` (R51). -/
def State.writeData (s : State) (a : Addr) (v : Byte) : State := s.setData (Memory.write s.data a v)

/-- The program store's write operation: reachable only through construction (R59). -/
def State.writeProg (s : State) (a : Addr) (v : Byte) : State := s.setProg (Memory.write s.prog a v)

/-! ## The program counter and the end of a step -/

/-- `PcInc()` (R27) for a value of the parameter `PcOverflow`. The fault leaves no successor state (R172). -/
def pcInc (mode : PcOverflow) (s : State) : Result :=
  if s.pc.toNat < 0xFFFF then .next (s.setPc (s.pc + 1#16))
  else
    match mode with
    | .wrap => .next (s.setPc 0#16)
    | .fault => .fault .pcOverflow

/-- `return continue(b)` (R9): the step ends and reports `b`. -/
def continueWith (b : Bool) (s : State) : Result := .next (s.report b)

end Sys2Proof.Machine
end

