-- ==== Sys2Proof/Machine/Flags.lean ====
section
/-!
DEFINITION. The flag computations (10_state.md R33) and the ALU operations, each with its result and its carry
(40_alu.md R100 to R110). Results are computed on unbounded integers and narrowed at the end (R8).
-/

namespace Sys2Proof.Machine

/-- 1 for true and 0 for false (R8). -/
def b2n (f : Bool) : Nat := if f then 1 else 0

/-- `SetZSP(res)` (R33): parity is bit 0, not the parity of the population count. -/
def setZSP (res : Byte) (f : Flags) : Flags :=
  { f with sign := res.getLsbD 7, parity := res.getLsbD 0, zero := decide (res = 0#8) }

/-- The carry flag written, the others kept. -/
def setCarryFlag (c : Bool) (f : Flags) : Flags := { f with carry := c }

/-- The `(result, carry)` pair that an ALU operation supplies to the common frame (R100). -/
structure AluOut where
  /-- The 8-bit result. -/
  result : Byte
  /-- The carry after the instruction. -/
  carry : Bool
  deriving DecidableEq, Repr

/-- `add` (R101). The carry is cleared when the sum does not exceed 255 (D7, log 7). -/
def addOp (a b : Byte) : AluOut :=
  { result := BitVec.ofNat 8 (a.toNat + b.toNat), carry := decide (a.toNat + b.toNat > 255) }

/-- `sub` (R102): the carry is 1 whatever the borrow. -/
def subOp (a b : Byte) : AluOut :=
  { result := BitVec.ofInt 8 ((a.toNat : Int) - (b.toNat : Int)), carry := true }

/-- `adc` (R103): the unbounded sum includes the old carry. The carry is cleared when it does not exceed 255 (D7,
log 7). -/
def adcOp (a b : Byte) (c : Bool) : AluOut :=
  { result := BitVec.ofNat 8 (a.toNat + b.toNat + b2n c), carry := decide (a.toNat + b.toNat + b2n c > 255) }

/-- `sbc` (R104): the old carry is subtracted; the carry is 1 whatever the borrow. -/
def sbcOp (a b : Byte) (c : Bool) : AluOut :=
  { result := BitVec.ofInt 8 ((a.toNat : Int) - (b.toNat : Int) - (b2n c : Int)), carry := true }

/-- `ror` (R105) for a value of the parameter `RorMsbWhenCarry`: the inserted bit is 0 when the old carry was 0. -/
def rorOp (msbWhenCarry : Bool) (a : Byte) (c : Bool) : AluOut :=
  { result := BitVec.ofBool (if c then msbWhenCarry else false) ++ a.extractLsb' 1 7, carry := a.getLsbD 0 }

/-- `nor` (R106): the carry is kept. -/
def norOp (a b : Byte) (c : Bool) : AluOut := { result := ~~~(a ||| b), carry := c }

/-- `and` (R107): the carry is kept. -/
def andOp (a b : Byte) (c : Bool) : AluOut := { result := a &&& b, carry := c }

/-- `reserved-7` (R108): result 0, the carry is kept. -/
def reserved7Op (c : Bool) : AluOut := { result := 0#8, carry := c }

/-- `cmp` (R109): the difference, the carry as `sub`. -/
def cmpOp (a b : Byte) : AluOut :=
  { result := BitVec.ofInt 8 ((a.toNat : Int) - (b.toNat : Int)), carry := true }

/-- The flags after an ALU operation: its carry, then `SetZSP` of its result (R100). -/
def aluFlags (o : AluOut) (f : Flags) : Flags := setZSP o.result (setCarryFlag o.carry f)

end Sys2Proof.Machine
end

