-- ==== Sys2Proof/Machine/Operands.lean ====
section
/-!
DEFINITION. The operand forms (30_encoding.md R73) and the three ways to form a memory address (43_immediate_and_memory.md R153).
-/

namespace Sys2Proof.Machine

/-- The register operand `reg[R]` as a source: an unsigned byte, no extension (R73). -/
def registerOperand (r : RegIndex) (s : State) : Byte := s.readReg r

/-- The register operand `reg[R]` as a destination (R73). -/
def writeRegisterOperand (r : RegIndex) (v : Byte) (s : State) : State := s.writeReg r v

/-- The accumulator, implicit (R73). -/
def accumulatorOperand (s : State) : Byte := s.acc

/-- The MAR operand `reg[7]:reg[6]`, formed from the registers as they are now (R30, R73). -/
def marOperand (s : State) : Addr := s.readReg 7#8 ++ s.readReg 6#8

/-- The fixed register operands of code 23: the pc into slots 2 (low) and 3 (high) (R73, R141). -/
def writeLinkOperands (link : Addr) (s : State) : State :=
  (s.writeReg 2#8 (link.extractLsb' 0 8)).writeReg 3#8 (link.extractLsb' 8 8)

end Sys2Proof.Machine
end

