-- ==== Sys2Proof/Machine/Alu.lean ====
section
/-!
DEFINITION. The ALU group, codes 0 to 8 (40_alu.md). Each reads the old carry before any flag is written (R100).
-/

namespace Sys2Proof.Machine

/-- The common frame of codes 0 to 7: flags from the result, result to the accumulator (R100, C2, log 16). -/
def aluStore (o : AluOut) (s : State) : Result :=
  continueWith true ((s.setFlags (aluFlags o s.flags)).setAcc o.result)

/-- The frame of code 8: flags only (R100, R109). -/
def aluFlagsOnly (o : AluOut) (s : State) : Result :=
  continueWith true (s.setFlags (aluFlags o s.flags))

/-- `add` (R101). -/
def execAdd (r : RegIndex) (s : State) : Result :=
  aluStore (addOp (accumulatorOperand s) (registerOperand r s)) s

/-- `sub` (R102). -/
def execSub (r : RegIndex) (s : State) : Result :=
  aluStore (subOp (accumulatorOperand s) (registerOperand r s)) s

/-- `adc` (R103). -/
def execAdc (r : RegIndex) (s : State) : Result :=
  aluStore (adcOp (accumulatorOperand s) (registerOperand r s) s.flags.carry) s

/-- `sbc` (R104). -/
def execSbc (r : RegIndex) (s : State) : Result :=
  aluStore (sbcOp (accumulatorOperand s) (registerOperand r s) s.flags.carry) s

/-- `ror` (R105): the top bit when the old carry was 1 is the free parameter (log 2). -/
def execRor (s : State) : Result :=
  aluStore (rorOp Config.rorMsbWhenCarry (accumulatorOperand s) s.flags.carry) s

/-- `nor` (R106): the result is stored (C2, log 16). -/
def execNor (r : RegIndex) (s : State) : Result :=
  aluStore (norOp (accumulatorOperand s) (registerOperand r s) s.flags.carry) s

/-- `and` (R107). -/
def execAnd (r : RegIndex) (s : State) : Result :=
  aluStore (andOp (accumulatorOperand s) (registerOperand r s) s.flags.carry) s

/-- `reserved-7` (R108): not illegal, no trap (R78). -/
def execReserved7 (s : State) : Result :=
  aluStore (reserved7Op s.flags.carry) s

/-- `cmp` (R109). -/
def execCmp (r : RegIndex) (s : State) : Result :=
  aluFlagsOnly (cmpOp (accumulatorOperand s) (registerOperand r s)) s

end Sys2Proof.Machine
end

