-- ==== Sys2Proof/Machine/CarryTransfer.lean ====
section
/-!
DEFINITION. Carry control and accumulator transfer, codes 9 to 12 (41_carry_and_transfer.md). None runs `SetZSP`.
-/

namespace Sys2Proof.Machine

/-- `set-carry` (R120). -/
def execSetCarry (s : State) : Result := continueWith true (s.setFlags (setCarryFlag true s.flags))

/-- `clear-carry` (R121). -/
def execClearCarry (s : State) : Result := continueWith true (s.setFlags (setCarryFlag false s.flags))

/-- `load-acc` (R122). -/
def execLoadAcc (r : RegIndex) (s : State) : Result := continueWith true (s.setAcc (registerOperand r s))

/-- `store-acc` (R123). -/
def execStoreAcc (r : RegIndex) (s : State) : Result :=
  continueWith true (writeRegisterOperand r (accumulatorOperand s) s)

end Sys2Proof.Machine
end

