-- ==== Sys2Proof/Machine/ControlFlow.lean ====
section
/-!
DEFINITION. Control flow, codes 13 to 21 and 23 (42_control_flow.md). The pc holds the address after the opcode byte
when a meaning runs (10_state.md R28).
-/

namespace Sys2Proof.Machine

/-- The common rule of the jumps (R130): taken, the pc is the MAR; not taken, it stays as the fetch left it. -/
def jumpWhen (taken : Bool) (s : State) : Result :=
  continueWith true (if taken then s.setPc (marOperand s) else s)

/-- `jmp` (R131). -/
def execJmp (s : State) : Result := jumpWhen true s

/-- `jmp-if-carry` (R132). -/
def execJmpIfCarry (s : State) : Result := jumpWhen s.flags.carry s

/-- `jmp-if-not-carry` (R133). -/
def execJmpIfNotCarry (s : State) : Result := jumpWhen (!s.flags.carry) s

/-- `jmp-if-zero` (R134). -/
def execJmpIfZero (s : State) : Result := jumpWhen s.flags.zero s

/-- `jmp-if-not-zero` (R135). -/
def execJmpIfNotZero (s : State) : Result := jumpWhen (!s.flags.zero) s

/-- `jmp-if-sign` (R136). -/
def execJmpIfSign (s : State) : Result := jumpWhen s.flags.sign s

/-- `jmp-if-not-sign` (R137). -/
def execJmpIfNotSign (s : State) : Result := jumpWhen (!s.flags.sign) s

/-- `jmp-if-parity` (R138). -/
def execJmpIfParity (s : State) : Result := jumpWhen s.flags.parity s

/-- `jmp-if-not-parity` (R139). -/
def execJmpIfNotParity (s : State) : Result := jumpWhen (!s.flags.parity) s

/-- `call-save` (R141): the pc, already past the opcode byte, into r3:r2. It does not jump. -/
def execCallSave (s : State) : Result := continueWith true (writeLinkOperands s.pc s)

end Sys2Proof.Machine
end

