-- ==== Sys2Proof/Machine/HaltUnused.lean ====
section
/-!
DEFINITION. Halt and the unused codes, 26 to 31 (44_halt_and_unused.md).
-/

namespace Sys2Proof.Machine

/-- `unused-26` (R162): no operation. -/
def execUnused26 (s : State) : Result := continueWith true s

/-- `unused-27` (R163): no operation. -/
def execUnused27 (s : State) : Result := continueWith true s

/-- `unused-28` (R164): no operation. -/
def execUnused28 (s : State) : Result := continueWith true s

/-- `halt` (R160): report the halt signal; no latch is set (R161, log 10). -/
def execHalt (s : State) : Result := continueWith false s

/-- `unused-30` (R165): no operation. -/
def execUnused30 (s : State) : Result := continueWith true s

/-- `unused-31` (R166): no operation. -/
def execUnused31 (s : State) : Result := continueWith true s

end Sys2Proof.Machine
end

