-- ==== Sys2Proof/Machine/LoadStore.lean ====
section
/-!
DEFINITION. Immediate load and data-store access, codes 22, 24 and 25 (43_immediate_and_memory.md).
-/

namespace Sys2Proof.Machine

/-- `load-immediate` (R150): the pc holds the operand byte's address, is advanced past it, then the register is
written. `imm` is the byte that the fetch read there (`fetchInstr`, log 22). -/
def execLoadImmediate (r : RegIndex) (imm : Byte) (s : State) : Result :=
  andThen (pcInc Config.pcOverflow s) (fun t => continueWith true (writeRegisterOperand r imm t))

/-- `store-mem` (R151). -/
def execStoreMem (r : RegIndex) (s : State) : Result :=
  continueWith true (s.writeData (marOperand s) (registerOperand r s))

/-- `load-mem` (R152): the address is formed before the register is written. -/
def execLoadMem (r : RegIndex) (s : State) : Result :=
  continueWith true (writeRegisterOperand r (s.readData (marOperand s)) s)

end Sys2Proof.Machine
end

