-- ==== Sys2Proof/Syntax.lean ====
section
/-!
DEFINITION. The instructions: one constructor per row of the opcode map (30_encoding.md R75, opcode_table.json).
-/

namespace Sys2Proof

/-- The 32 instructions of R75, in the order of their codes. An instruction that uses the R field carries the index it
selects. One that ignores R carries nothing: all eight values of R decode to the same instruction (R74, log 20).
Code 22 carries its operand byte (R72). -/
inductive Instr
  | add (r : RegIndex)
  | sub (r : RegIndex)
  | adc (r : RegIndex)
  | sbc (r : RegIndex)
  | ror
  | nor (r : RegIndex)
  | and (r : RegIndex)
  | reserved7
  | cmp (r : RegIndex)
  | setCarry
  | clearCarry
  | loadAcc (r : RegIndex)
  | storeAcc (r : RegIndex)
  | jmp
  | jmpIfCarry
  | jmpIfNotCarry
  | jmpIfZero
  | jmpIfNotZero
  | jmpIfSign
  | jmpIfNotSign
  | jmpIfParity
  | jmpIfNotParity
  | loadImmediate (r : RegIndex) (imm : Byte)
  | callSave
  | storeMem (r : RegIndex)
  | loadMem (r : RegIndex)
  | unused26
  | unused27
  | unused28
  | halt
  | unused30
  | unused31
  deriving DecidableEq, Repr

end Sys2Proof
end

