-- ==== Sys2Proof/Machine/Dispatch.lean ====
section
/-!
DEFINITION. The execute phase (30_encoding.md R71): one arm per instruction.
-/

namespace Sys2Proof.Machine

/-- `execute_I(R)` (R71): the pc of `s` is the address after the opcode byte (R28). -/
def exec (i : Instr) (s : State) : Host.Outcome State Fault Refusal :=
  match i with
  | .add r => Sys2Proof.Machine.execAdd r s
  | .sub r => Sys2Proof.Machine.execSub r s
  | .adc r => Sys2Proof.Machine.execAdc r s
  | .sbc r => Sys2Proof.Machine.execSbc r s
  | .ror => Sys2Proof.Machine.execRor s
  | .nor r => Sys2Proof.Machine.execNor r s
  | .and r => Sys2Proof.Machine.execAnd r s
  | .reserved7 => Sys2Proof.Machine.execReserved7 s
  | .cmp r => Sys2Proof.Machine.execCmp r s
  | .setCarry => Sys2Proof.Machine.execSetCarry s
  | .clearCarry => Sys2Proof.Machine.execClearCarry s
  | .loadAcc r => Sys2Proof.Machine.execLoadAcc r s
  | .storeAcc r => Sys2Proof.Machine.execStoreAcc r s
  | .jmp => Sys2Proof.Machine.execJmp s
  | .jmpIfCarry => Sys2Proof.Machine.execJmpIfCarry s
  | .jmpIfNotCarry => Sys2Proof.Machine.execJmpIfNotCarry s
  | .jmpIfZero => Sys2Proof.Machine.execJmpIfZero s
  | .jmpIfNotZero => Sys2Proof.Machine.execJmpIfNotZero s
  | .jmpIfSign => Sys2Proof.Machine.execJmpIfSign s
  | .jmpIfNotSign => Sys2Proof.Machine.execJmpIfNotSign s
  | .jmpIfParity => Sys2Proof.Machine.execJmpIfParity s
  | .jmpIfNotParity => Sys2Proof.Machine.execJmpIfNotParity s
  | .loadImmediate r imm => Sys2Proof.Machine.execLoadImmediate r imm s
  | .callSave => Sys2Proof.Machine.execCallSave s
  | .storeMem r => Sys2Proof.Machine.execStoreMem r s
  | .loadMem r => Sys2Proof.Machine.execLoadMem r s
  | .unused26 => Sys2Proof.Machine.execUnused26 s
  | .unused27 => Sys2Proof.Machine.execUnused27 s
  | .unused28 => Sys2Proof.Machine.execUnused28 s
  | .halt => Sys2Proof.Machine.execHalt s
  | .unused30 => Sys2Proof.Machine.execUnused30 s
  | .unused31 => Sys2Proof.Machine.execUnused31 s

end Sys2Proof.Machine
end

