-- ==== Sys2Proof/WellFormed.lean ====
section
/-!
DEFINITION. Which instruction terms an encoding can hold: a register operand is an index 0 to 7, the range of the
3-bit R field (10_state.md R21, 30_encoding.md R70).
-/

namespace Sys2Proof

/-- "Every index an instruction produces is 0–7" (R21). -/
def RegIndex.isSlot (r : RegIndex) : Bool := decide (r.toNat < 8)

/-- The register operand of an instruction that has one is the index of a slot. Its operand byte may be any byte
(R77). -/
def Instr.wellFormed : Instr → Bool
  | .add r => RegIndex.isSlot r
  | .sub r => RegIndex.isSlot r
  | .adc r => RegIndex.isSlot r
  | .sbc r => RegIndex.isSlot r
  | .ror => true
  | .nor r => RegIndex.isSlot r
  | .and r => RegIndex.isSlot r
  | .reserved7 => true
  | .cmp r => RegIndex.isSlot r
  | .setCarry => true
  | .clearCarry => true
  | .loadAcc r => RegIndex.isSlot r
  | .storeAcc r => RegIndex.isSlot r
  | .jmp => true
  | .jmpIfCarry => true
  | .jmpIfNotCarry => true
  | .jmpIfZero => true
  | .jmpIfNotZero => true
  | .jmpIfSign => true
  | .jmpIfNotSign => true
  | .jmpIfParity => true
  | .jmpIfNotParity => true
  | .loadImmediate r _ => RegIndex.isSlot r
  | .callSave => true
  | .storeMem r => RegIndex.isSlot r
  | .loadMem r => RegIndex.isSlot r
  | .unused26 => true
  | .unused27 => true
  | .unused28 => true
  | .halt => true
  | .unused30 => true
  | .unused31 => true

/-- The well-formed instructions: those that some bytes decode to. -/
abbrev WellFormed (i : Instr) : Prop := i.wellFormed = true

end Sys2Proof
end

