-- ==== Sys2Proof/Decode.lean ====
section
/-!
DEFINITION. The decoder (30_encoding.md R70 to R76) and, after it, the encoder. No opcode byte is illegal (R77), so the
decoder refuses only a byte sequence that ends too early.
-/

namespace Sys2Proof

/-- The I field, `op[4:0]` (R70). -/
def opcodeField (op : Byte) : BitVec 5 := op.extractLsb' 0 5

/-- The R field, `op[7:5]` (R70), as an index of the register-file port. -/
def registerField (op : Byte) : RegIndex := (op.extractLsb' 5 3).setWidth 8

/-- The opcode map (R75): the instruction of code `code` whose R field is `r` and whose next program byte is
`operand`. Only code 22 has an operand byte (R72). The last arm is code 31, the last value of a 5-bit field
(`Laws.instrOf_code` says that no code falls through to another's row). -/
def instrOf (code : BitVec 5) (r : RegIndex) (operand : Byte) : Instr :=
  match code.toNat with
  | 0 => .add r
  | 1 => .sub r
  | 2 => .adc r
  | 3 => .sbc r
  | 4 => .ror
  | 5 => .nor r
  | 6 => .and r
  | 7 => .reserved7
  | 8 => .cmp r
  | 9 => .setCarry
  | 10 => .clearCarry
  | 11 => .loadAcc r
  | 12 => .storeAcc r
  | 13 => .jmp
  | 14 => .jmpIfCarry
  | 15 => .jmpIfNotCarry
  | 16 => .jmpIfZero
  | 17 => .jmpIfNotZero
  | 18 => .jmpIfSign
  | 19 => .jmpIfNotSign
  | 20 => .jmpIfParity
  | 21 => .jmpIfNotParity
  | 22 => .loadImmediate r operand
  | 23 => .callSave
  | 24 => .storeMem r
  | 25 => .loadMem r
  | 26 => .unused26
  | 27 => .unused27
  | 28 => .unused28
  | 29 => .halt
  | 30 => .unused30
  | _ => .unused31

/-- The instruction of the opcode byte `op` when `operand` is the program byte after it. Total: every byte decodes
(R77). -/
def decodeOp (op operand : Byte) : Instr := instrOf (opcodeField op) (registerField op) operand

/-- The length in bytes, told from the I field alone (R72). -/
def lengthOfCode (code : BitVec 5) : Nat := if code = 22#5 then 2 else 1

/-- Why a byte sequence holds no instruction. Neither can happen at a fetch, where a next byte always exists (R51).
DESIGN CHOICE: the spec does not speak of a sequence that ends too early (log 29). -/
inductive DecodeRefusal
  /-- There is no opcode byte. Raised by `decode`; safe, as no step meets it. -/
  | noOpcodeByte
  /-- A code-22 opcode is the last byte. Raised by `decode`; safe, as no step meets it. -/
  | noOperandByte
  deriving DecidableEq, Repr

/-- What `decode` answers: the first instruction and the bytes after it, or a refusal by name. -/
inductive Decoded
  | ok (i : Instr) (rest : List Byte)
  | refused (why : DecodeRefusal)
  deriving DecidableEq, Repr

/-- Decode the first instruction of a byte sequence (R72). A sequence that ends too early is refused by name (log 29). -/
def decode : List Byte → Decoded
  | [] => .refused .noOpcodeByte
  | op :: rest =>
    if lengthOfCode (opcodeField op) = 2 then
      match rest with
      | [] => .refused .noOperandByte
      | operand :: rest' => .ok (decodeOp op operand) rest'
    else .ok (decodeOp op 0#8) rest

/-- The instruction that a `Decoded` holds, if any. -/
def Decoded.instr? : Decoded → Option Instr
  | .ok i _ => some i
  | .refused _ => none

/-- The opcode byte of an instruction given as a number `w` of `nbits` bits: the byte in bits 7..0. -/
def tableOpcodeByte (nbits w : Nat) : Byte := BitVec.ofNat 8 (w % 2 ^ nbits)

/-- The byte after it: bits 15..8. Every bit from `nbits` on is 0. -/
def tableOperandByte (nbits w : Nat) : Byte := BitVec.ofNat 8 (w % 2 ^ nbits / 256)

/-- The instruction that `decode` reads from the bytes of `w`, numbered as opcode_table.json numbers them. -/
def decodeTableWord (nbits w : Nat) : Option Instr :=
  (decode [tableOpcodeByte nbits w, tableOperandByte nbits w]).instr?

/-! ## The encoder -/

/-- The code of an instruction (R75). -/
def Instr.code : Instr → BitVec 5
  | .add _ => 0#5
  | .sub _ => 1#5
  | .adc _ => 2#5
  | .sbc _ => 3#5
  | .ror => 4#5
  | .nor _ => 5#5
  | .and _ => 6#5
  | .reserved7 => 7#5
  | .cmp _ => 8#5
  | .setCarry => 9#5
  | .clearCarry => 10#5
  | .loadAcc _ => 11#5
  | .storeAcc _ => 12#5
  | .jmp => 13#5
  | .jmpIfCarry => 14#5
  | .jmpIfNotCarry => 15#5
  | .jmpIfZero => 16#5
  | .jmpIfNotZero => 17#5
  | .jmpIfSign => 18#5
  | .jmpIfNotSign => 19#5
  | .jmpIfParity => 20#5
  | .jmpIfNotParity => 21#5
  | .loadImmediate _ _ => 22#5
  | .callSave => 23#5
  | .storeMem _ => 24#5
  | .loadMem _ => 25#5
  | .unused26 => 26#5
  | .unused27 => 27#5
  | .unused28 => 28#5
  | .halt => 29#5
  | .unused30 => 30#5
  | .unused31 => 31#5

/-- The register operand of an instruction that uses the R field (R75). -/
def Instr.regOperand? : Instr → Option RegIndex
  | .add r => some r
  | .sub r => some r
  | .adc r => some r
  | .sbc r => some r
  | .ror => none
  | .nor r => some r
  | .and r => some r
  | .reserved7 => none
  | .cmp r => some r
  | .setCarry => none
  | .clearCarry => none
  | .loadAcc r => some r
  | .storeAcc r => some r
  | .jmp => none
  | .jmpIfCarry => none
  | .jmpIfNotCarry => none
  | .jmpIfZero => none
  | .jmpIfNotZero => none
  | .jmpIfSign => none
  | .jmpIfNotSign => none
  | .jmpIfParity => none
  | .jmpIfNotParity => none
  | .loadImmediate r _ => some r
  | .callSave => none
  | .storeMem r => some r
  | .loadMem r => some r
  | .unused26 => none
  | .unused27 => none
  | .unused28 => none
  | .halt => none
  | .unused30 => none
  | .unused31 => none

/-- The operand bytes after the opcode byte: one for code 22, none otherwise (R72). -/
def Instr.operandBytes : Instr → List Byte
  | .loadImmediate _ imm => [imm]
  | .add _ | .sub _ | .adc _ | .sbc _ | .ror | .nor _ | .and _ | .reserved7 | .cmp _ => []
  | .setCarry | .clearCarry | .loadAcc _ | .storeAcc _ => []
  | .jmp | .jmpIfCarry | .jmpIfNotCarry | .jmpIfZero | .jmpIfNotZero => []
  | .jmpIfSign | .jmpIfNotSign | .jmpIfParity | .jmpIfNotParity | .callSave => []
  | .storeMem _ | .loadMem _ => []
  | .unused26 | .unused27 | .unused28 | .halt | .unused30 | .unused31 => []

/-- The opcode byte `R * 32 + I` (R70). -/
def opcodeByte (r : RegIndex) (code : BitVec 5) : Byte := r.extractLsb' 0 3 ++ code

/-- The bytes of an instruction. One that ignores R is assembled with R = 0 (R80). -/
def encode (i : Instr) : List Byte :=
  opcodeByte (i.regOperand?.getD 0#8) i.code :: i.operandBytes

end Sys2Proof
end

