-- ==== Sys2Proof/Machine/Fetch.lean ====
section
/-!
DEFINITION. Fetch and decode (30_encoding.md R71), and the placing of an instruction where the next fetch reads it.
-/

namespace Sys2Proof.Machine

/-- The instruction at the pc: the opcode byte and, should it be code 22, the byte after it, where the pc stands once
the fetch has advanced it (R71, R150). After 0xFFFF that is address 0, which is reached only when `PcOverflow` is
`Wrap`. The byte is also read for one-byte instructions and then ignored; a read has no side effect (R56, log 22). -/
def fetchInstr (s : State) : Instr := decodeOp (s.readProg s.pc) (s.readProg (s.pc + 1#16))

/-- The fetch phase then the phase `execute`: the increment comes between (R71), and its fault ends the step (R172). -/
def fetchThen (execute : Instr → State → Result) (s : State) : Result :=
  andThen (pcInc Config.pcOverflow s) (execute (fetchInstr s))

/-- The program store with two bytes placed where the next fetch reads them. -/
def placeAtPc (s : State) (opcode operand : Byte) : State :=
  (s.writeProg s.pc opcode).writeProg (s.pc + 1#16) operand

end Sys2Proof.Machine
end

