-- ==== Sys2Proof/Machine/Step.lean ====
section
/-!
DEFINITION. One step: fetch, increment, decode, execute (30_encoding.md R71), one atomic transition (10_state.md R41).
-/

namespace Sys2Proof.Machine

/-- `step()` (R71). -/
def step (s : State) : Host.Outcome State Fault Refusal := fetchThen exec s

/-- The instruction given as a number, loaded into the program store at the pc. It stands for the host's load of a
program image (70_reset_and_hazards.md R191, log 6). -/
def State.withFetchWord (s : State) (nbits w : Nat) : State :=
  placeAtPc s (tableOpcodeByte nbits w) (tableOperandByte nbits w)

end Sys2Proof.Machine
end

