-- ==== Sys2Proof/Machine/Assembly.lean ====
section
/-!
DEFINITION. The spec's own notation for instructions (30_encoding.md R80, D12, log 25) and its pseudo-instruction
`set-mar` (R81). No behaviour depends on this file. The assembler's direction is `encode`.
-/

namespace Sys2Proof.Machine

/-- The name of a register-file slot (10_state.md R20). An index of 8 or more names none. -/
def registerName (r : RegIndex) : String :=
  match r.toNat with
  | 0 => "r0"
  | 1 => "r1"
  | 2 => "r2"
  | 3 => "r3"
  | 4 => "sf"
  | 5 => "sp"
  | 6 => "marl"
  | 7 => "marh"
  | _ => "none"

/-- The mnemonic (R75). -/
def mnemonic : Instr → String
  | .add _ => "add"
  | .sub _ => "sub"
  | .adc _ => "adc"
  | .sbc _ => "sbc"
  | .ror => "ror"
  | .nor _ => "nor"
  | .and _ => "and"
  | .reserved7 => "reserved-7"
  | .cmp _ => "cmp"
  | .setCarry => "set-carry"
  | .clearCarry => "clear-carry"
  | .loadAcc _ => "load-acc"
  | .storeAcc _ => "store-acc"
  | .jmp => "jmp"
  | .jmpIfCarry => "jmp-if-carry"
  | .jmpIfNotCarry => "jmp-if-not-carry"
  | .jmpIfZero => "jmp-if-zero"
  | .jmpIfNotZero => "jmp-if-not-zero"
  | .jmpIfSign => "jmp-if-sign"
  | .jmpIfNotSign => "jmp-if-not-sign"
  | .jmpIfParity => "jmp-if-parity"
  | .jmpIfNotParity => "jmp-if-not-parity"
  | .loadImmediate _ _ => "load-immediate"
  | .callSave => "call-save"
  | .storeMem _ => "store-mem"
  | .loadMem _ => "load-mem"
  | .unused26 => "unused-26"
  | .unused27 => "unused-27"
  | .unused28 => "unused-28"
  | .halt => "halt"
  | .unused30 => "unused-30"
  | .unused31 => "unused-31"

/-- One hexadecimal digit. -/
def hexDigit (n : Nat) : Char := if n < 10 then Char.ofNat (48 + n) else Char.ofNat (55 + n)

/-- A byte as `0x` and two hexadecimal digits (R80). -/
def hexByte (b : Byte) : String :=
  "0x" ++ String.singleton (hexDigit (b.toNat / 16)) ++ String.singleton (hexDigit (b.toNat % 16))

/-- The suffix for a nonzero R field that the instruction ignores: an opening brace, `r=N`, a closing brace (R80). -/
def ignoredRegisterSuffix (r : RegIndex) : String :=
  if r = 0#8 then ""
  else " " ++ String.singleton (Char.ofNat 123) ++ "r=" ++ String.singleton (hexDigit r.toNat)
    ++ String.singleton (Char.ofNat 125)

/-- The operand byte as printed after the register (R80). -/
def immediateSuffix : List Byte → String
  | [] => ""
  | imm :: _ => ", " ++ hexByte imm

/-- How a disassembler prints an opcode byte and the byte after it: every byte has a spelling (R80). -/
def spell (op operand : Byte) : String :=
  let i := decodeOp op operand
  mnemonic i ++
    (match i.regOperand? with
      | some r => " " ++ registerName r ++ immediateSuffix i.operandBytes
      | none => ignoredRegisterSuffix (registerField op))

/-- `set-mar ADDR16` (R81): two instructions, 4 bytes. -/
def setMar (a : Addr) : List Instr :=
  [.loadImmediate 6#8 (a.extractLsb' 0 8), .loadImmediate 7#8 (a.extractLsb' 8 8)]

end Sys2Proof.Machine
end

