-- ==== Sys2Proof/Machine/Ports.lean ====
section
/-!
DEFINITION. The interface of the block (10_state.md R40 to R45) and the run that a host drives through it
(70_reset_and_hazards.md R190 to R196).
-/

namespace Sys2Proof.Machine

/-! ## Construction, the only reset (R190, log 26) -/

/-- The two parameters of a construction (R7): `InitAcc` and `InitFlags`. -/
structure InitValues where
  /-- `InitAcc`, any byte. -/
  acc : Byte
  /-- `InitFlags`, any of the 16 combinations. -/
  flags : Flags
  deriving DecidableEq, Repr

/-- `construct(image)` (R190, R191): registers and data store zero, the program store from the image, pc 0. Nothing of
an earlier state survives. -/
def construct (init : InitValues) (image : List Byte) : State where
  acc := init.acc
  regs := ⟨0#8, 0#8, 0#8, 0#8, 0#8, 0#8, 0#8, 0#8⟩
  pc := 0#16
  flags := init.flags
  prog := Memory.ofImage image
  data := []
  continueOut := true

/-! ## Introspection (R42 to R45) -/

/-- `get_state(i)` (R42): zero-extended (D14, log 13), 0 for an index that names nothing, and no index for the flags
(R43). -/
def getState (i : Nat) (s : State) : BitVec 16 :=
  match i with
  | 8 => s.acc.setWidth 16
  | 9 => s.pc
  | _ => if i < 8 then (s.readReg (BitVec.ofNat 8 i)).setWidth 16 else 0#16

/-- The record that `dump` returns (R45). Its display format is the host's (R4). -/
structure Dump where
  /-- The accumulator. -/
  acc : Byte
  /-- `reg[0]` to `reg[7]`. -/
  regs : RegFile
  /-- The program counter. -/
  pc : Addr
  /-- C, Z, P and S. -/
  flags : Flags
  deriving DecidableEq, Repr

/-- `dump` (R45). -/
def dump (s : State) : Dump := { acc := s.acc, regs := s.regs, pc := s.pc, flags := s.flags }

/-! ## The host's moves (R40, R194) -/

/-- What the host may do: exactly the ports of R40. It has no move that writes a store or a register (log 14). -/
inductive HostAction
  | construct (image : List Byte)
  | step
  | getState (index : Nat)
  | dump
  deriving DecidableEq, Repr

/-- What the core returns to the host. -/
inductive HostReply
  | constructed
  | stepped (cont : Bool)
  | value (v : BitVec 16)
  | snapshot (d : Dump)
  deriving DecidableEq, Repr

/-- What comes of one host action: a reply and the state after it, or the faulted outcome of a step. -/
inductive HostResult
  | replied (reply : HostReply) (s : State)
  | faulted (r : Fault)
  | refused (r : Refusal)
  deriving DecidableEq, Repr

/-- One interaction (R194, R195). -/
def hostAct (init : InitValues) (a : HostAction) (s : State) : HostResult :=
  match a with
  | .construct image => .replied .constructed (construct init image)
  | .step =>
    match step s with
    | .next t => .replied (.stepped t.continueOut) t
    | .fault r => .faulted r
    | .refused r => .refused r
  | .getState i => .replied (.value (getState i s)) s
  | .dump => .replied (.snapshot (dump s)) s

/-! ## Runs (R196, R197, log 24) -/

/-- How far a run has come. -/
inductive RunResult
  /-- Every step so far reported `continue = true`. -/
  | running (s : State)
  /-- The last step reported `continue = false`: the end of the run, with its final state. -/
  | halted (s : State)
  /-- The last step raised a fault: the end of the run, with no state. -/
  | faulted (r : Fault)
  /-- The last step was refused. -/
  | refused (r : Refusal)
  deriving DecidableEq, Repr

/-- At most `k` steps, stopping at the end of the run (R196). -/
def runToEnd : Nat → State → RunResult
  | 0, s => .running s
  | k + 1, s =>
    match step s with
    | .next t => if t.continueOut then runToEnd k t else .halted t
    | .fault r => .faulted r
    | .refused r => .refused r

/-- Exactly `k` steps, whatever they report: a host may step on after a halt (R161, R194). -/
def stepMany : Nat → State → Result
  | 0, s => .next s
  | k + 1, s => andThen (step s) (stepMany k)

end Sys2Proof.Machine
end

