-- ==== Sys2Proof/Safety.lean ====
section
/-!
DEFINITION. What counts as a safe step and a safe run, and the invariant of the stores, in the terms the claims use.
-/

namespace Sys2Proof.Machine

/-- Both stores have their canonical form, so that equal contents are equal data. -/
def State.Inv (s : State) : Prop := Memory.wf s.prog = true ∧ Memory.wf s.data = true

/-- The step from `s` has a successor state: "no fault" (60_exceptions.md R172). -/
def StepSafe (s : State) : Prop := ∃ t, step s = .next t

/-- `k` steps from `s` raise no fault: the premise that a claim about a program takes (R172). -/
def RunSafe (k : Nat) (s : State) : Prop := ∃ t, stepMany k s = .next t

/-- The run from `s` comes to its end by a `halt` (70_reset_and_hazards.md R196). -/
def Halts (s : State) (final : State) : Prop := ∃ k, runToEnd k s = .halted final

end Sys2Proof.Machine
end

