-- ==== Sys2Proof/Certificates/Slice0/Obligations.lean ====
section
/-!
DEFINITION. The statements for the provers, and the few terms they share. Numbers are computed here on Nat, apart from
the model's own operations, so that a statement does not repeat a definition.
-/

namespace Sys2Proof.Claims

open Sys2Proof.Machine

/-- The eight opcode bytes `R * 32 + code` decode to `f R`, whatever byte follows (R70, R75). For an instruction that
ignores R, `f` is constant. -/
def EncodedAt (code : Nat) (f : RegIndex → Instr) : Prop :=
  ∀ k, k < 8 → ∀ x : Byte, decodeOp (BitVec.ofNat 8 (k * 32 + code)) x = f (BitVec.ofNat 8 k)

/-- The flags that a result below 256 leaves (R33), with a given carry. -/
def flagsOf (res : Nat) (c : Bool) : Flags :=
  { carry := c, zero := decide (res = 0), parity := decide (res % 2 = 1), sign := decide (128 ≤ res) }

/-- `(a - b - c) mod 256` for bytes `a` and `b` and a bit `c` (R110). -/
def difference (a b c : Nat) : Nat := (a + 512 - b - c) % 256

/-- `reg[7] * 256 + reg[6]` (R30). -/
def marNumber (s : State) : Addr := BitVec.ofNat 16 ((s.readReg 7#8).toNat * 256 + (s.readReg 6#8).toNat)

/-- Every byte of both stores reads in `t` as in `s`. -/
def SameStores (s t : State) : Prop :=
  (∀ a, t.readData a = s.readData a) ∧ ∀ a, t.readProg a = s.readProg a

/-- Slot `r` holds `v` in `t`, and every other index reads as in `s`. For an index of 8 or more nothing is written. -/
def RegWritten (r : RegIndex) (v : Byte) (s t : State) : Prop :=
  ∀ j, t.readReg j = if j = r ∧ r.toNat < 8 then v else s.readReg j

/-- The state after a jump: only the pc and the port may differ from `s`. -/
def afterJump (taken : Bool) (s : State) : State :=
  { s with pc := if taken then marNumber s else s.pc, continueOut := true }

/-- The state after an ALU instruction that stores the number `res`: only `acc`, the flags and the port may differ. -/
def afterAlu (res : Nat) (carry : Bool) (s : State) : State :=
  { s with acc := BitVec.ofNat 8 res, flags := flagsOf res carry, continueOut := true }

/-- The registers that an instruction writes (R22). -/
def writtenRegisters : Instr → List RegIndex
  | .storeAcc r => [r]
  | .loadImmediate r _ => [r]
  | .loadMem r => [r]
  | .callSave => [2#8, 3#8]
  | .add _ | .sub _ | .adc _ | .sbc _ | .ror | .nor _ | .and _ | .reserved7 | .cmp _ => []
  | .setCarry | .clearCarry | .loadAcc _ | .storeMem _ => []
  | .jmp | .jmpIfCarry | .jmpIfNotCarry | .jmpIfZero | .jmpIfNotZero => []
  | .jmpIfSign | .jmpIfNotSign | .jmpIfParity | .jmpIfNotParity => []
  | .unused26 | .unused27 | .unused28 | .halt | .unused30 | .unused31 => []

/-- The pc after the step from `s` (R29), modulo 65536. -/
def pcAfter (s : State) : Addr :=
  match fetchInstr s with
  | .jmp => marNumber s
  | .jmpIfCarry => if s.flags.carry then marNumber s else s.pc + 1#16
  | .jmpIfNotCarry => if s.flags.carry then s.pc + 1#16 else marNumber s
  | .jmpIfZero => if s.flags.zero then marNumber s else s.pc + 1#16
  | .jmpIfNotZero => if s.flags.zero then s.pc + 1#16 else marNumber s
  | .jmpIfSign => if s.flags.sign then marNumber s else s.pc + 1#16
  | .jmpIfNotSign => if s.flags.sign then s.pc + 1#16 else marNumber s
  | .jmpIfParity => if s.flags.parity then marNumber s else s.pc + 1#16
  | .jmpIfNotParity => if s.flags.parity then s.pc + 1#16 else marNumber s
  | .loadImmediate _ _ => s.pc + 2#16
  | .add _ | .sub _ | .adc _ | .sbc _ | .ror | .nor _ | .and _ | .reserved7 | .cmp _ => s.pc + 1#16
  | .setCarry | .clearCarry | .loadAcc _ | .storeAcc _ | .callSave | .storeMem _ | .loadMem _ => s.pc + 1#16
  | .unused26 | .unused27 | .unused28 | .halt | .unused30 | .unused31 => s.pc + 1#16

/-- The code of the opcode byte at the pc. -/
def codeAtPc (s : State) : Nat := (s.readProg s.pc).toNat % 32

/-- The codes whose R field is ignored, as R74 lists them. -/
def ignoringCodes : List Nat := [4, 7, 9, 10, 13, 14, 15, 16, 17, 18, 19, 20, 21, 23, 26, 27, 28, 29, 30, 31]

/-- The codes that use the R field, by R75's column "uses R". -/
def usingCodes : List Nat := [0, 1, 2, 3, 5, 6, 8, 11, 12, 22, 24, 25]

end Sys2Proof.Claims

open Sys2Proof Sys2Proof.Machine Sys2Proof.Claims

/-- Decoding the encoding of a well-formed instruction gives it back. Basis: derived, 30_encoding.md R70, R72, R75,
R80. -/
def Obligations.DecodeEncodeRoundTrip : Prop :=
  ∀ i : Instr, WellFormed i → ∀ rest : List Byte, decode (encode i ++ rest) = .ok i rest

/-- No encoding is illegal and no encoding traps, the open overflow of the pc at 0xFFFF apart (D5). Basis: derived,
30_encoding.md R77, 10_state.md R27, 60_exceptions.md R172, 92_eei_decisions.md D5. R77 says that every byte pair is
executable; that a second increment from 0xFFFF wraps or faults is the open parameter PcOverflow (R27, R172, D5; log
1), the spec's decision and not R77's. -/
def Obligations.EveryBytePairIsExecutable : Prop :=
  ∀ (op x : Byte), WellFormed (decodeOp op x) ∧
    ∀ s : State, (∃ t, exec (decodeOp op x) s = .next t) ∨
      (exec (decodeOp op x) s = .fault .pcOverflow ∧ op.toNat % 32 = 22 ∧ s.pc = 0xFFFF#16 ∧ Config.pcOverflow = .fault)

/-- For the codes that ignore R, all eight values of R decode to the same instruction. Basis: stated, R74. -/
def Obligations.IgnoredRegisterFieldDecodesAlike : Prop :=
  ∀ code ∈ ignoringCodes, ∀ k j : Nat, k < 8 → j < 8 → ∀ x y : Byte,
    decodeOp (BitVec.ofNat 8 (k * 32 + code)) x = decodeOp (BitVec.ofNat 8 (j * 32 + code)) y

/-- The low five bits select the instruction and the high three bits its register. Basis: stated, R70. -/
def Obligations.OpcodeFieldsSelectInstruction : Prop :=
  ∀ (op x : Byte), (decodeOp op x).code.toNat = op.toNat % 32 ∧
    (decodeOp op x).regOperand? =
      (if op.toNat % 32 ∈ usingCodes then some (BitVec.ofNat 8 (op.toNat / 32)) else none) ∧
    op.toNat = (registerField op).toNat * 32 + (opcodeField op).toNat ∧ (registerField op).toNat < 8

/-- Every instruction is one byte except code 22, which is two; a lone code-22 byte is refused (the model's choice,
log 29). Basis: derived, 30_encoding.md R72. The lengths, the operand and its register are R72's; that a lone
code-22 byte is refused as noOperandByte is the model's choice, which R72 does not say (log 29). -/
def Obligations.DecoderConsumesOneOrTwoBytes : Prop :=
  ∀ (op x : Byte) (rest : List Byte),
    decode (op :: x :: rest) = .ok (decodeOp op x) (if op.toNat % 32 = 22 then rest else x :: rest) ∧
    (op.toNat % 32 = 22 → decodeOp op x = .loadImmediate (BitVec.ofNat 8 (op.toNat / 32)) x) ∧
    decode [op] = (if op.toNat % 32 = 22 then .refused .noOperandByte else .ok (decodeOp op x) [])

/-- The bytes of the spec's decode table decode to its instructions. Basis: derived, 95_test_vectors.md 2.1. -/
def Obligations.WrittenOutBytesDecode : Prop :=
  ∀ x : Byte,
    decodeOp 0x00#8 x = .add 0#8 ∧ decodeOp 0x20#8 x = .add 1#8 ∧ decodeOp 0xE1#8 x = .sub 7#8 ∧
    decodeOp 0x16#8 x = .loadImmediate 0#8 x ∧ decodeOp 0xD6#8 x = .loadImmediate 6#8 x ∧
    decodeOp 0xF6#8 x = .loadImmediate 7#8 x ∧ decodeOp 0x6D#8 x = .jmp ∧ decodeOp 0xFD#8 x = .halt ∧
    decodeOp 0x07#8 x = .reserved7 ∧ decodeOp 0xFF#8 x = .unused31 ∧ decodeOp 0x97#8 x = .callSave

/-- A step fetches at the pc, increments it, and executes the decoded instruction. Basis: derived, 30_encoding.md
R71, 10_state.md R27, 60_exceptions.md R172, 92_eei_decisions.md D5. What happens at 0xFFFF is the open parameter of
PcInc, the spec's decision D5 (R27, R172; log 1). -/
def Obligations.StepRunsTheFetchedInstruction : Prop :=
  ∀ (s : State) (i : Instr), decodeOp (s.readProg s.pc) (s.readProg (s.pc + 1#16)) = i → WellFormed i →
    (s.pc ≠ 0xFFFF#16 → step s = exec i { s with pc := s.pc + 1#16 }) ∧
    (s.pc = 0xFFFF#16 → step s =
      match Config.pcOverflow with
      | .wrap => exec i { s with pc := 0#16 }
      | .fault => .fault .pcOverflow) ∧
    ∀ t, step s = .next t → t.continueOut = !decide (i = .halt)

/-- PcInc adds one below 0xFFFF; at 0xFFFF it wraps or faults as its parameter says (the spec's choice D5). Basis:
derived, 10_state.md R27, 92_eei_decisions.md D5. The two behaviours are the spec's decision D5 (log 1). -/
def Obligations.PcIncrementFollowsTheParameter : Prop :=
  ∀ (mode : PcOverflow) (s : State),
    (s.pc.toNat < 65535 → pcInc mode s = .next { s with pc := BitVec.ofNat 16 (s.pc.toNat + 1) }) ∧
    (s.pc.toNat = 65535 → pcInc mode s =
      match mode with
      | .wrap => .next { s with pc := 0#16 }
      | .fault => .fault .pcOverflow)

/-- The register-file port reads back what was written to a slot and ignores an index of 8 or more. Basis: derived,
10_state.md R21, 30_encoding.md R70, 42_control_flow.md R141. The last clause is the spec's own inference (R21:
derived from R70 and R141). -/
def Obligations.RegisterFilePortIsTotal : Prop :=
  (∀ (rf : RegFile) (i : RegIndex) (v : Byte),
      (i.toNat < 8 → (rf.write i v).read i = v) ∧
      (∀ j, j ≠ i → (rf.write i v).read j = rf.read j) ∧
      (8 ≤ i.toNat → rf.read i = 0#8 ∧ rf.write i v = rf)) ∧
    ∀ (op x : Byte) (r : RegIndex), (decodeOp op x).regOperand? = some r → r.toNat < 8

/-- Only store-acc, load-immediate and load-mem write the register they select, and call-save slots 2 and 3. Basis:
derived, 10_state.md R22, R23, R24. That sf and sp are plain slots is the spec's choice (D8, D9; log 8, log 9). -/
def Obligations.InstructionsWriteOnlyTheirRegisters : Prop :=
  ∀ (i : Instr) (s t : State), exec i s = .next t → ∀ j : RegIndex, j ∉ writtenRegisters i → t.readReg j = s.readReg j

/-- A byte written to a store reads back, every other byte and the other store are unchanged. Basis: stated, R52. -/
def Obligations.StoresReadBackWhatWasWritten : Prop :=
  ∀ (s : State) (a b : Addr) (v : Byte),
    (s.writeData a v).readData a = v ∧ (b ≠ a → (s.writeData a v).readData b = s.readData b) ∧
    (s.writeData a v).readProg b = s.readProg b ∧
    (s.writeProg a v).readProg a = v ∧ (b ≠ a → (s.writeProg a v).readProg b = s.readProg b) ∧
    (s.writeProg a v).readData b = s.readData b

/-- Two stores in canonical form that read alike at every address are the same data (the model's form, log 19).
Basis: derived, 20_memory.md R51, R52, R56. The canonical form is the model's own (log 19). -/
def Obligations.CanonicalStoresWithEqualBytesAreEqual : Prop :=
  ∀ m n : Memory, Memory.wf m = true → Memory.wf n = true → (∀ a : Addr, Memory.read m a = Memory.read n a) → m = n

/-- Every instruction but store-mem leaves every byte of both stores; store-mem leaves the program store. Basis:
derived, 20_memory.md R50, R59, R63. -/
def Obligations.NonStoringInstructionsKeepEveryByte : Prop :=
  ∀ (i : Instr) (s t : State), exec i s = .next t →
    (∀ a, t.readProg a = s.readProg a) ∧ ((∀ r, i ≠ .storeMem r) → ∀ a, t.readData a = s.readData a)

/-- Construction loads the image at address 0, zero-padded or truncated to 65536 bytes. Basis: stated, R191. -/
def Obligations.ImageIsLoadedPaddedAndTruncated : Prop :=
  ∀ (init : InitValues) (image : List Byte),
    (∀ a : Addr, (construct init image).readProg a = image.getD a.toNat 0x00#8) ∧
    construct init image = construct init (image.take 65536)

/-- Every step keeps the canonical form of both stores (the model's form, log 19). Basis: derived, 10_state.md R35,
R41, 20_memory.md R51. The canonical form is the model's own (log 19). -/
def Obligations.StepKeepsStoresCanonical : Prop :=
  ∀ s t : State, s.Inv → step s = .next t → t.Inv

/-- The reset state and every constructed state have stores in canonical form (the model's form, log 19). Basis:
derived, 10_state.md R46, 70_reset_and_hazards.md R190. The canonical form is the model's own (log 19). -/
def Obligations.ResetAndConstructedStoresAreCanonical : Prop :=
  State.reset.Inv ∧ ∀ (init : InitValues) (image : List Byte), (construct init image).Inv

/-- No step writes the program store: after any number of steps it still holds the loaded image. Basis: stated, R59.
-/
def Obligations.ProgramStoreIsTheImageForTheWholeRun : Prop :=
  (∀ (k : Nat) (s t : State), stepMany k s = .next t → ∀ a, t.readProg a = s.readProg a) ∧
    ∀ (k : Nat) (init : InitValues) (image : List Byte) (t : State), stepMany k (construct init image) = .next t →
      ∀ a : Addr, t.readProg a = image.getD a.toNat 0x00#8

/-- add stores the sum modulo 256 and its flags; its carry is cleared without overflow (the spec's choice D7).
Basis: derived, 40_alu.md R101, R100, R110, 92_eei_decisions.md D7. The cleared carry is the spec's choice D7 (log
7). -/
def Obligations.AddStoresSumAndCarry : Prop :=
  EncodedAt 0 .add ∧ ∀ (s : State) (r : RegIndex),
    exec (.add r) s =
      .next (afterAlu ((s.acc.toNat + (s.readReg r).toNat) % 256)
        (decide (255 < s.acc.toNat + (s.readReg r).toNat)) s)

/-- sub stores the difference modulo 256 and sets the carry whatever the borrow. Basis: stated, R102. -/
def Obligations.SubStoresDifferenceAndSetsCarry : Prop :=
  EncodedAt 1 .sub ∧ ∀ (s : State) (r : RegIndex),
    exec (.sub r) s = .next (afterAlu (difference s.acc.toNat (s.readReg r).toNat 0) true s)

/-- adc stores the sum with the old carry; its carry is cleared without overflow (the spec's choice D7). Basis:
derived, 40_alu.md R103, R100, R110, 92_eei_decisions.md D7. The cleared carry is the spec's choice D7 (log 7). -/
def Obligations.AdcStoresSumWithCarry : Prop :=
  EncodedAt 2 .adc ∧ ∀ (s : State) (r : RegIndex),
    exec (.adc r) s =
      .next (afterAlu ((s.acc.toNat + (s.readReg r).toNat + s.flags.carry.toNat) % 256)
        (decide (255 < s.acc.toNat + (s.readReg r).toNat + s.flags.carry.toNat)) s)

/-- sbc stores the difference less the old carry modulo 256 and sets the carry. Basis: stated, R104. -/
def Obligations.SbcStoresDifferenceWithCarry : Prop :=
  EncodedAt 3 .sbc ∧ ∀ (s : State) (r : RegIndex),
    exec (.sbc r) s =
      .next (afterAlu (difference s.acc.toNat (s.readReg r).toNat s.flags.carry.toNat) true s)

/-- ror moves the accumulator right by one; bit 7 is 0, or the parameter when the carry was 1 (D6). Basis: derived,
40_alu.md R105, R111, 92_eei_decisions.md D6. The inserted bit is the open parameter of D6 (log 2). -/
def Obligations.RorShiftsRightWithTheParameterBit : Prop :=
  EncodedAt 4 (fun _ => .ror) ∧ ∀ s : State,
    exec .ror s =
      .next (afterAlu ((if s.flags.carry && Config.rorMsbWhenCarry then 128 else 0) + s.acc.toNat / 2)
        (decide (s.acc.toNat % 2 = 1)) s)

/-- nor stores the bitwise NOR in the accumulator (the spec's resolution C2) and keeps the carry. Basis: derived,
40_alu.md R106, R100, 90_conflicts.md C2. That nor stores its result in the accumulator is the spec's resolution C2
of a contradiction in the source (log 16). -/
def Obligations.NorStoresResultAndKeepsCarry : Prop :=
  EncodedAt 5 .nor ∧ ∀ (s : State) (r : RegIndex),
    exec (.nor r) s = .next (afterAlu (255 - (s.acc.toNat ||| (s.readReg r).toNat)) s.flags.carry s)

/-- and stores the bitwise AND and keeps the carry. Basis: stated, R107. -/
def Obligations.AndStoresResultAndKeepsCarry : Prop :=
  EncodedAt 6 .and ∧ ∀ (s : State) (r : RegIndex),
    exec (.and r) s = .next (afterAlu (s.acc.toNat &&& (s.readReg r).toNat) s.flags.carry s)

/-- reserved-7 stores 0 (the spec's resolution C2), sets zero, clears sign and parity, and keeps the carry. Basis:
derived, 40_alu.md R108, R100, 90_conflicts.md C2. That reserved-7 writes its 0 to the accumulator is the spec's
resolution C2 of a contradiction in the source (log 16). -/
def Obligations.ReservedSevenStoresZero : Prop :=
  EncodedAt 7 (fun _ => .reserved7) ∧ ∀ s : State,
    exec .reserved7 s =
      .next { s with
        acc := 0#8, flags := { carry := s.flags.carry, zero := true, parity := false, sign := false },
        continueOut := true }

/-- cmp sets the flags of the difference, sets the carry and keeps the accumulator. Basis: stated, R109. -/
def Obligations.CmpSetsFlagsAndKeepsAccumulator : Prop :=
  EncodedAt 8 .cmp ∧ ∀ (s : State) (r : RegIndex),
    exec (.cmp r) s =
      .next { s with flags := flagsOf (difference s.acc.toNat (s.readReg r).toNat 0) true, continueOut := true } ∧
    ((flagsOf (difference s.acc.toNat (s.readReg r).toNat 0) true).zero = true ↔ s.acc = s.readReg r)

/-- Every code 0 to 8 sets zero, sign and parity from its result, parity being bit 0. Basis: derived, 10_state.md
R33, 40_alu.md R100, R109, 90_conflicts.md C2. R33 gives the flags; that the result is the new accumulator is R100's
and, for nor and reserved-7, the spec's resolution C2 (log 16); the value for cmp is R109's. -/
def Obligations.AluFlagsFollowTheResult : Prop :=
  ∀ (i : Instr) (s : State), i.code.toNat ≤ 8 → ∃ (t : State) (res : Byte), exec i s = .next t ∧
    t.flags.sign = decide (128 ≤ res.toNat) ∧ t.flags.parity = decide (res.toNat % 2 = 1) ∧
    t.flags.zero = decide (res.toNat = 0) ∧ (i.code.toNat ≠ 8 → res = t.acc) ∧
    ∀ r, i = .cmp r → res.toNat = difference s.acc.toNat (s.readReg r).toNat 0

/-- An sbc after a sub, sbc or cmp always subtracts an extra 1. Basis: derived, 40_alu.md R104, R102, R109. -/
def Obligations.SbcAfterASubtractionTakesOneMore : Prop :=
  ∀ (s t : State) (r q : RegIndex), exec (.sub r) s = .next t ∨ exec (.sbc r) s = .next t ∨ exec (.cmp r) s = .next t →
    ∃ u, exec (.sbc q) t = .next u ∧ u.acc.toNat = difference t.acc.toNat (t.readReg q).toNat 1

/-- add on the low bytes and adc on the high bytes add two 16-bit numbers. Basis: derived, 40_alu.md R101, R103,
R110. The cleared carry is the spec's choice D7 (log 7). -/
def Obligations.AddThenAdcAddsSixteenBits : Prop :=
  ∀ a₁ a₀ b₁ b₀ : Byte,
    (adcOp a₁ b₁ (addOp a₀ b₀).carry).result.toNat * 256 + (addOp a₀ b₀).result.toNat =
      (a₁.toNat * 256 + a₀.toNat + (b₁.toNat * 256 + b₀.toNat)) % 65536 ∧
    (adcOp a₁ b₁ (addOp a₀ b₀).carry).carry =
      decide (65535 < a₁.toNat * 256 + a₀.toNat + (b₁.toNat * 256 + b₀.toNat))

/-- set-carry and clear-carry write the carry flag and nothing else. Basis: stated, R120, R121. -/
def Obligations.SetAndClearCarryWriteOnlyCarry : Prop :=
  EncodedAt 9 (fun _ => .setCarry) ∧ EncodedAt 10 (fun _ => .clearCarry) ∧ ∀ s : State,
    exec .setCarry s = .next { s with flags := { s.flags with carry := true }, continueOut := true } ∧
    exec .clearCarry s = .next { s with flags := { s.flags with carry := false }, continueOut := true }

/-- load-acc copies the register into the accumulator and changes no flag (flags: the spec's inference). Basis:
derived, 41_carry_and_transfer.md R122. The flag clause is marked as derived in R122. -/
def Obligations.LoadAccCopiesTheRegister : Prop :=
  EncodedAt 11 .loadAcc ∧ ∀ (s : State) (r : RegIndex),
    exec (.loadAcc r) s = .next { s with acc := s.readReg r, continueOut := true }

/-- store-acc copies the accumulator into the register it selects and changes nothing else. Basis: stated, R123. -/
def Obligations.StoreAccWritesTheSelectedRegister : Prop :=
  EncodedAt 12 .storeAcc ∧ ∀ (s : State) (r : RegIndex), ∃ t, exec (.storeAcc r) s = .next t ∧
    RegWritten r s.acc s t ∧ SameStores s t ∧
    t.acc = s.acc ∧ t.pc = s.pc ∧ t.flags = s.flags ∧ t.continueOut = true ∧
    (r = 6#8 → (marNumber t).toNat = (s.readReg 7#8).toNat * 256 + s.acc.toNat) ∧
    (r = 7#8 → (marNumber t).toNat = s.acc.toNat * 256 + (s.readReg 6#8).toNat)

/-- jmp loads the pc with the MAR and changes nothing else. Basis: stated, R131. -/
def Obligations.JmpGoesToTheMar : Prop :=
  EncodedAt 13 (fun _ => .jmp) ∧ ∀ s : State, exec .jmp s = .next (afterJump true s)

/-- jmp-if-carry jumps when the carry flag is set, jmp-if-not-carry when it is clear. Basis: stated, R132, R133. -/
def Obligations.CarryJumpsTestTheCarryFlag : Prop :=
  EncodedAt 14 (fun _ => .jmpIfCarry) ∧ EncodedAt 15 (fun _ => .jmpIfNotCarry) ∧ ∀ s : State,
    exec .jmpIfCarry s = .next (afterJump s.flags.carry s) ∧ exec .jmpIfNotCarry s = .next (afterJump (!s.flags.carry) s)

/-- jmp-if-zero jumps when the zero flag is set, jmp-if-not-zero when it is clear. Basis: stated, R134, R135. -/
def Obligations.ZeroJumpsTestTheZeroFlag : Prop :=
  EncodedAt 16 (fun _ => .jmpIfZero) ∧ EncodedAt 17 (fun _ => .jmpIfNotZero) ∧ ∀ s : State,
    exec .jmpIfZero s = .next (afterJump s.flags.zero s) ∧ exec .jmpIfNotZero s = .next (afterJump (!s.flags.zero) s)

/-- jmp-if-sign jumps when the sign flag is set, jmp-if-not-sign when it is clear. Basis: stated, R136, R137. -/
def Obligations.SignJumpsTestTheSignFlag : Prop :=
  EncodedAt 18 (fun _ => .jmpIfSign) ∧ EncodedAt 19 (fun _ => .jmpIfNotSign) ∧ ∀ s : State,
    exec .jmpIfSign s = .next (afterJump s.flags.sign s) ∧ exec .jmpIfNotSign s = .next (afterJump (!s.flags.sign) s)

/-- jmp-if-parity jumps when the parity flag is set, jmp-if-not-parity when it is clear. Basis: stated, R138, R139.
-/
def Obligations.ParityJumpsTestTheParityFlag : Prop :=
  EncodedAt 20 (fun _ => .jmpIfParity) ∧ EncodedAt 21 (fun _ => .jmpIfNotParity) ∧ ∀ s : State,
    exec .jmpIfParity s = .next (afterJump s.flags.parity s) ∧ exec .jmpIfNotParity s = .next (afterJump (!s.flags.parity) s)

/-- In the same state exactly one jump of each pair is taken. Basis: derived, 42_control_flow.md R140. -/
def Obligations.ExactlyOneJumpOfAPairIsTaken : Prop :=
  ∀ s : State, marNumber s ≠ s.pc →
    ∀ p ∈ [(Instr.jmpIfCarry, Instr.jmpIfNotCarry), (Instr.jmpIfZero, Instr.jmpIfNotZero),
           (Instr.jmpIfSign, Instr.jmpIfNotSign), (Instr.jmpIfParity, Instr.jmpIfNotParity)],
      (exec p.1 s = exec .jmp s ∧ exec p.2 s ≠ exec .jmp s) ∨ (exec p.1 s ≠ exec .jmp s ∧ exec p.2 s = exec .jmp s)

/-- A jump goes to the MAR or stays, and writes no register, flag or memory. Basis: derived, 42_control_flow.md
R130. -/
def Obligations.JumpsWriteOnlyThePc : Prop :=
  ∀ (i : Instr) (s : State), 13 ≤ i.code.toNat → i.code.toNat ≤ 21 → ∃ t, exec i s = .next t ∧
    (t.pc = marNumber s ∨ t.pc = s.pc) ∧ t.acc = s.acc ∧ (∀ j, t.readReg j = s.readReg j) ∧ t.flags = s.flags ∧
    SameStores s t ∧ t.continueOut = true

/-- call-save puts the low byte of the pc in slot 2 and the high byte in slot 3, and does not jump. Basis: stated,
R141. -/
def Obligations.CallSaveWritesThePcToTwoRegisters : Prop :=
  EncodedAt 23 (fun _ => .callSave) ∧ (∀ s : State, ∃ t, exec .callSave s = .next t ∧
    (t.readReg 2#8).toNat = s.pc.toNat % 256 ∧ (t.readReg 3#8).toNat = s.pc.toNat / 256 ∧
    (∀ j, j ≠ 2#8 → j ≠ 3#8 → t.readReg j = s.readReg j) ∧ SameStores s t ∧
    t.pc = s.pc ∧ t.acc = s.acc ∧ t.flags = s.flags ∧ t.continueOut = true) ∧
    ∀ s : State, codeAtPc s = 23 → s.pc.toNat < 65535 → ∃ t, step s = .next t ∧ t.pc.toNat = s.pc.toNat + 1 ∧
      (t.readReg 3#8).toNat * 256 + (t.readReg 2#8).toNat = s.pc.toNat + 1

/-- The execute phase of load-immediate writes its operand and advances the pc. Basis: derived,
43_immediate_and_memory.md R150, 10_state.md R27, 92_eei_decisions.md D5. The case at 0xFFFF is the open parameter
of D5 (log 1). -/
def Obligations.LoadImmediateWritesTheOperand : Prop :=
  ∀ (s : State) (r : RegIndex) (imm : Byte),
    (s.pc ≠ 0xFFFF#16 → ∃ t, exec (.loadImmediate r imm) s = .next t ∧ t.pc.toNat = s.pc.toNat + 1 ∧
      RegWritten r imm s t ∧ SameStores s t ∧ t.acc = s.acc ∧ t.flags = s.flags ∧ t.continueOut = true) ∧
    (s.pc = 0xFFFF#16 →
      match Config.pcOverflow with
      | .wrap => ∃ t, exec (.loadImmediate r imm) s = .next t ∧ t.pc = 0#16 ∧
          RegWritten r imm s t ∧ SameStores s t ∧ t.acc = s.acc ∧ t.flags = s.flags ∧ t.continueOut = true
      | .fault => exec (.loadImmediate r imm) s = .fault .pcOverflow)

/-- A load-immediate step loads the byte after the opcode and goes on two bytes further. Basis: derived,
43_immediate_and_memory.md R150, 10_state.md R27, 60_exceptions.md R172, 92_eei_decisions.md D5. What happens from
0xFFFE on is the open parameter of PcInc, the spec's decision D5 (R27, R172; log 1). -/
def Obligations.LoadImmediateStepConsumesTheOperandByte : Prop :=
  (∀ k, k < 8 → ∀ x : Byte, decodeOp (BitVec.ofNat 8 (k * 32 + 22)) x = .loadImmediate (BitVec.ofNat 8 k) x) ∧
    ∀ (s : State) (k : Nat), k < 8 → s.readProg s.pc = BitVec.ofNat 8 (k * 32 + 22) →
      (s.pc.toNat < 65534 → ∃ t, step s = .next t ∧ t.pc.toNat = s.pc.toNat + 2 ∧
        RegWritten (BitVec.ofNat 8 k) (s.readProg (s.pc + 1#16)) s t ∧ SameStores s t ∧
        t.acc = s.acc ∧ t.flags = s.flags ∧ t.continueOut = true) ∧
      (65534 ≤ s.pc.toNat →
        match Config.pcOverflow with
        | .wrap => ∃ t, step s = .next t ∧ t.pc.toNat + 65536 = s.pc.toNat + 2 ∧
            RegWritten (BitVec.ofNat 8 k) (s.readProg (s.pc + 1#16)) s t ∧ SameStores s t ∧
            t.acc = s.acc ∧ t.flags = s.flags ∧ t.continueOut = true
        | .fault => step s = .fault .pcOverflow)

/-- store-mem writes the register to the data store at the MAR and changes no other byte. Basis: stated, R151. -/
def Obligations.StoreMemWritesTheByteAtTheMar : Prop :=
  EncodedAt 24 .storeMem ∧ ∀ (s : State) (r : RegIndex), ∃ t, exec (.storeMem r) s = .next t ∧
    t.readData (marNumber s) = s.readReg r ∧ (∀ a, a ≠ marNumber s → t.readData a = s.readData a) ∧
    (∀ a, t.readProg a = s.readProg a) ∧ (∀ j, t.readReg j = s.readReg j) ∧
    t.acc = s.acc ∧ t.pc = s.pc ∧ t.flags = s.flags ∧ t.continueOut = true

/-- load-mem loads the data byte at the MAR, formed before the register is written. Basis: stated, R152. -/
def Obligations.LoadMemReadsTheByteAtTheOldMar : Prop :=
  EncodedAt 25 .loadMem ∧ ∀ (s : State) (r : RegIndex), ∃ t, exec (.loadMem r) s = .next t ∧
    RegWritten r (s.readData (marNumber s)) s t ∧ SameStores s t ∧
    t.acc = s.acc ∧ t.pc = s.pc ∧ t.flags = s.flags ∧ t.continueOut = true

/-- A load-mem after a store-mem at the same MAR returns the stored register. Basis: derived, 20_memory.md R60, R52.
-/
def Obligations.LoadMemReturnsTheLastStore : Prop :=
  ∀ (s t : State) (r q : RegIndex), exec (.storeMem r) s = .next t → q.toNat < 8 →
    ∃ u, exec (.loadMem q) t = .next u ∧ u.readReg q = s.readReg r

/-- A store-acc into marl or marh changes the address of the very next jump, store and load. Basis: derived,
70_reset_and_hazards.md R200, 10_state.md R30. -/
def Obligations.MarWritesReachTheNextUser : Prop :=
  ∀ (s t : State) (high : Bool), exec (.storeAcc (if high then 7#8 else 6#8)) s = .next t →
    ∃ a : Addr, a.toNat = (if high then s.acc.toNat else (s.readReg 7#8).toNat) * 256 +
        (if high then (s.readReg 6#8).toNat else s.acc.toNat) ∧
      (∃ u, exec .jmp t = .next u ∧ u.pc = a) ∧
      (∀ q, ∃ u, exec (.storeMem q) t = .next u ∧ u.readData a = t.readReg q) ∧
      ∀ q, q.toNat < 8 → ∃ u, exec (.loadMem q) t = .next u ∧ u.readReg q = s.readData a

/-- halt reports continue = false and changes nothing beyond the fetch increment (the spec's resolution C3). Basis:
derived, 44_halt_and_unused.md R160, 10_state.md R29, 90_conflicts.md C3. That the pc is one higher after the step
is the spec's resolution C3 of a contradiction in the source (log 17). -/
def Obligations.HaltReportsAndChangesNothing : Prop :=
  EncodedAt 29 (fun _ => .halt) ∧ (∀ s : State, exec .halt s = .next { s with continueOut := false }) ∧
    ∀ s : State, codeAtPc s = 29 → s.pc.toNat < 65535 →
      step s = .next { s with pc := BitVec.ofNat 16 (s.pc.toNat + 1), continueOut := false }

/-- The five unused codes change nothing beyond the fetch increment and report continue = true. Basis: stated, R162,
R163, R164, R165, R166. -/
def Obligations.UnusedCodesDoNothing : Prop :=
  EncodedAt 26 (fun _ => .unused26) ∧ EncodedAt 27 (fun _ => .unused27) ∧ EncodedAt 28 (fun _ => .unused28) ∧
    EncodedAt 30 (fun _ => .unused30) ∧ EncodedAt 31 (fun _ => .unused31) ∧
    (∀ s : State, exec .unused26 s = .next { s with continueOut := true } ∧
      exec .unused27 s = .next { s with continueOut := true } ∧ exec .unused28 s = .next { s with continueOut := true } ∧
      exec .unused30 s = .next { s with continueOut := true } ∧ exec .unused31 s = .next { s with continueOut := true }) ∧
    ∀ s : State, codeAtPc s ∈ [26, 27, 28, 30, 31] → s.pc.toNat < 65535 →
      step s = .next { s with pc := BitVec.ofNat 16 (s.pc.toNat + 1), continueOut := true }

/-- A step reports continue = false exactly when it decoded code 29. Basis: derived, 10_state.md R40, 30_encoding.md
R71, 44_halt_and_unused.md R160. -/
def Obligations.OnlyHaltReportsFalse : Prop :=
  ∀ s t : State, step s = .next t → (t.continueOut = false ↔ codeAtPc s = 29)

/-- The step does not depend on what the last step reported: there is no halted latch (the spec's choice D10).
Basis: derived, 44_halt_and_unused.md R161, 92_eei_decisions.md D10. No halted latch is the spec's choice D10 (log
10). -/
def Obligations.NoHaltedLatch : Prop :=
  ∀ (s : State) (b : Bool), step { s with continueOut := b } = step s ∧
    ∀ i : Instr, exec i { s with continueOut := b } = exec i s

/-- A step stops only by the pc overflow, when the parameter is Fault; otherwise it has a next state. Basis:
derived, 60_exceptions.md R170, R172, R174, 92_eei_decisions.md D5. The fault is the open parameter of D5 (log 1).
-/
def Obligations.OnlyPcOverflowStopsAStep : Prop :=
  ∀ s : State, (∀ r, step s ≠ .refused r) ∧
    (∀ r, step s = .fault r ↔ r = .pcOverflow ∧ Config.pcOverflow = .fault ∧
      (s.pc = 0xFFFF#16 ∨ (s.pc = 0xFFFE#16 ∧ codeAtPc s = 22))) ∧
    (s.pc.toNat < 65534 → StepSafe s)

/-- Every step leaves the pc as the spec's table says: next address, two further for code 22, the MAR for a taken
jump (halt: C3). Basis: derived, 10_state.md R29, R28, 90_conflicts.md C3. The row for halt, one higher, is the
spec's resolution C3 of a contradiction in the source (log 17). -/
def Obligations.PcAfterEveryStep : Prop :=
  ∀ s t : State, step s = .next t → t.pc = pcAfter s

/-- The carry changes only by codes 0 to 4, 8, 9 and 10, and zero, sign and parity only by codes 0 to 8. Basis:
derived, 10_state.md R32, R31. -/
def Obligations.FlagsChangeOnlyWhereTheTableSays : Prop :=
  ∀ (i : Instr) (s t : State), exec i s = .next t →
    (i.code.toNat ∉ [0, 1, 2, 3, 4, 8, 9, 10] → t.flags.carry = s.flags.carry) ∧
    (i.code.toNat ∈ [1, 3, 8, 9] → t.flags.carry = true) ∧ (i.code.toNat = 10 → t.flags.carry = false) ∧
    (8 < i.code.toNat → t.flags.zero = s.flags.zero ∧ t.flags.sign = s.flags.sign ∧ t.flags.parity = s.flags.parity)

/-- Only codes 0 to 7 and load-acc write the accumulator. Basis: derived, 10_state.md R25. -/
def Obligations.AccumulatorChangesOnlyByCodesZeroToSevenAndEleven : Prop :=
  ∀ (i : Instr) (s t : State), exec i s = .next t → 8 ≤ i.code.toNat → i.code.toNat ≠ 11 → t.acc = s.acc

/-- Construction zeroes the registers and the data store and starts at 0; acc and flags are the parameters. Basis:
derived, 10_state.md R46, 70_reset_and_hazards.md R190, 92_eei_decisions.md D3, D4. The values of State.reset for
acc and flags are the model's choice (log 3, log 4); pc 0 is derived in R46. -/
def Obligations.ConstructionValues : Prop :=
  (∀ (init : InitValues) (image : List Byte),
      (∀ j, (construct init image).readReg j = 0#8) ∧ (∀ a, (construct init image).readData a = 0#8) ∧
      (construct init image).pc = 0#16 ∧ (construct init image).acc = init.acc ∧
      (construct init image).flags = init.flags) ∧
    State.reset = construct ⟨Config.initAcc, ⟨Config.initCarry, Config.initZero, Config.initParity, Config.initSign⟩⟩ []

/-- get_state answers the registers, the accumulator and the pc by index, zero-extended (the spec's choice D14).
Basis: derived, 10_state.md R42, 92_eei_decisions.md D14. Zero-extension is the spec's choice D14 (log 13). -/
def Obligations.GetStateWidensByIndex : Prop :=
  ∀ (s : State) (i : Nat),
    (i ≤ 7 → (getState i s).toNat = (s.readReg (BitVec.ofNat 8 i)).toNat) ∧
    (i = 8 → (getState i s).toNat = s.acc.toNat) ∧ (i = 9 → getState i s = s.pc) ∧ (10 ≤ i → getState i s = 0x0000#16)

/-- A run that ends by a halt ends at its first halt, one past it (C3), and allowing more steps does not change the
end (D21). Basis: derived, 70_reset_and_hazards.md R196, 44_halt_and_unused.md R160, 90_conflicts.md C3,
92_eei_decisions.md D21. The end of a run is the spec's choice D21 (log 24); that the pc is one higher after the
halt is its resolution C3 (log 17). -/
def Obligations.RunEndsAtTheFirstHalt : Prop :=
  ∀ (k : Nat) (s t : State), runToEnd k s = .halted t →
    (∀ n, runToEnd (k + n) s = .halted t) ∧
    ∃ (j : Nat) (u : State), j < k ∧ stepMany j s = .next u ∧ step u = .next t ∧ codeAtPc u = 29 ∧ t.pc = u.pc + 1#16 ∧
      ∀ (m : Nat) (v : State), m < j → stepMany m s = .next v → codeAtPc v ≠ 29

/-- Beyond the image, every step executes add r0. Basis: derived, 70_reset_and_hazards.md R198, R191, 30_encoding.md
R70, 40_alu.md R101. -/
def Obligations.RunningOffTheImageAddsRegisterZero : Prop :=
  ∀ (k : Nat) (init : InitValues) (image : List Byte) (s : State), stepMany k (construct init image) = .next s →
    image.length ≤ s.pc.toNat → s.pc.toNat < 65535 →
    step s = exec (.add 0#8) { s with pc := s.pc + 1#16 } ∧ StepSafe s

/-- set-mar is four bytes that leave the MAR at its operand and change nothing else. Basis: derived, 30_encoding.md
R81, 92_eei_decisions.md D12. set-mar is the spec's own pseudo-instruction (D12, log 25). -/
def Obligations.SetMarLoadsTheMarOnly : Prop :=
  ∀ a : Addr,
    (setMar a).flatMap encode = [0xD6#8, BitVec.ofNat 8 (a.toNat % 256), 0xF6#8, BitVec.ofNat 8 (a.toNat / 256)] ∧
    ∀ s : State, s.pc.toNat ≤ 65531 →
      (∀ n, n < 4 → s.readProg (s.pc + BitVec.ofNat 16 n) = ((setMar a).flatMap encode).getD n 0#8) →
      ∃ t, stepMany 2 s = .next t ∧ marNumber t = a ∧ t.pc.toNat = s.pc.toNat + 4 ∧ t.acc = s.acc ∧
        t.flags = s.flags ∧ (∀ j, j ≠ 6#8 → j ≠ 7#8 → t.readReg j = s.readReg j) ∧ SameStores s t

/-- get_state and dump leave the state as it was and so have no effect on later steps. Basis: stated, R44. -/
def Obligations.QueriesChangeNothing : Prop :=
  ∀ (init : InitValues) (s : State) (i : Nat),
    (∃ v, hostAct init (.getState i) s = .replied (.value v) s) ∧
    (∃ d, hostAct init .dump s = .replied (.snapshot d) s ∧ d.acc = s.acc ∧ (∀ j, d.regs.read j = s.readReg j) ∧
      d.pc = s.pc ∧ d.flags = s.flags) ∧
    ∀ (q : HostAction) (reply : HostReply) (t : State), q = .getState i ∨ q = .dump →
      hostAct init q s = .replied reply t → hostAct init .step t = hostAct init .step s
end

