-- ==== Sys2Proof/Laws/Decode.lean ====
section
/-!
SUPPORT. The fields of an opcode byte and the rows of the opcode map (30_encoding.md R70, R75, R76).
-/

namespace Sys2Proof

/-- No code falls through to another's row: the instruction of code `c` has code `c` (R76). -/
theorem Laws.instrOf_code (c : BitVec 5) (r : RegIndex) (operand : Byte) : (instrOf c r operand).code = c := by
  obtain ⟨⟨n, h⟩⟩ := c
  interval_cases n <;> rfl

/-- The register operand of a decoded instruction, where it has one, is the R field. -/
theorem Laws.instrOf_regOperand (c : BitVec 5) (r : RegIndex) (operand : Byte) :
    (instrOf c r operand).regOperand? = none ∨ (instrOf c r operand).regOperand? = some r := by
  obtain ⟨⟨n, h⟩⟩ := c
  interval_cases n <;> first | exact .inl rfl | exact .inr rfl

/-- An instruction is well formed exactly when its register operand, if any, is the index of a slot. -/
theorem Laws.wellFormed_iff (i : Instr) : WellFormed i ↔ ∀ r, i.regOperand? = some r → r.toNat < 8 := by
  cases i <;> simp [WellFormed, Instr.wellFormed, Instr.regOperand?, RegIndex.isSlot]

/-- The fields of an opcode byte put together (R70): `op[4:0]` is the code. -/
theorem Laws.opcodeField_opcodeByte (r : RegIndex) (c : BitVec 5) : opcodeField (opcodeByte r c) = c := by
  unfold opcodeField opcodeByte
  ext i hi
  rw [BitVec.getElem_extractLsb', Nat.zero_add]
  exact (BitVec.getLsbD_append ..).trans (by simp [hi])

/-- The fields of an opcode byte put together (R70): `op[7:5]` is the register index, for the index of a slot. -/
theorem Laws.registerField_opcodeByte {r : RegIndex} (c : BitVec 5) (h : r.toNat < 8) :
    registerField (opcodeByte r c) = r := by
  have all : ∀ c : BitVec 5, ∀ k : Fin 8,
      registerField (opcodeByte (BitVec.ofNat 8 k.val) c) = BitVec.ofNat 8 k.val := by decide
  have hr : r = BitVec.ofNat 8 (⟨r.toNat, h⟩ : Fin 8).val := by simp
  rw [hr]
  exact all c ⟨r.toNat, h⟩

/-- The R field is below 8. -/
theorem Laws.registerField_lt (op : Byte) : (registerField op).toNat < 8 := by
  have h : (registerField op).toNat = (op.extractLsb' 5 3).toNat := by simp [registerField]; omega
  rw [h]
  exact (op.extractLsb' 5 3).isLt

end Sys2Proof
end

