-- ==== Sys2Proof/Laws/Flags.lean ====
section
/-!
SUPPORT. The result and the carry of each ALU operation as numbers (40_alu.md R101 to R110), and the fields of the flag
updates.
-/

namespace Sys2Proof.Machine

@[simp] theorem b2n_true : b2n true = 1 := rfl

@[simp] theorem b2n_false : b2n false = 0 := rfl

theorem b2n_le_one (c : Bool) : b2n c ≤ 1 := by cases c <;> decide

@[simp] theorem setZSP_carry (res : Byte) (f : Flags) : (setZSP res f).carry = f.carry := rfl

@[simp] theorem setZSP_zero (res : Byte) (f : Flags) : (setZSP res f).zero = decide (res = 0#8) := rfl

@[simp] theorem setZSP_parity (res : Byte) (f : Flags) : (setZSP res f).parity = res.getLsbD 0 := rfl

@[simp] theorem setZSP_sign (res : Byte) (f : Flags) : (setZSP res f).sign = res.getLsbD 7 := rfl

@[simp] theorem setCarryFlag_carry (c : Bool) (f : Flags) : (setCarryFlag c f).carry = c := rfl

@[simp] theorem setCarryFlag_zero (c : Bool) (f : Flags) : (setCarryFlag c f).zero = f.zero := rfl

@[simp] theorem setCarryFlag_parity (c : Bool) (f : Flags) : (setCarryFlag c f).parity = f.parity := rfl

@[simp] theorem setCarryFlag_sign (c : Bool) (f : Flags) : (setCarryFlag c f).sign = f.sign := rfl

/-- An integer narrowed to a byte is its remainder modulo 256. -/
theorem toNat_ofInt_byte (z : Int) : ((BitVec.ofInt 8 z).toNat : Int) = z % 256 := by
  rw [BitVec.toNat_ofInt]
  omega

theorem addOp_result (a b : Byte) : (addOp a b).result.toNat = (a.toNat + b.toNat) % 256 := by
  simp [addOp]

theorem adcOp_result (a b : Byte) (c : Bool) :
    (adcOp a b c).result.toNat = (a.toNat + b.toNat + b2n c) % 256 := by
  simp [adcOp]

theorem subOp_result (a b : Byte) : ((subOp a b).result.toNat : Int) = ((a.toNat : Int) - b.toNat) % 256 :=
  toNat_ofInt_byte _

theorem sbcOp_result (a b : Byte) (c : Bool) :
    ((sbcOp a b c).result.toNat : Int) = ((a.toNat : Int) - b.toNat - b2n c) % 256 :=
  toNat_ofInt_byte _

theorem cmpOp_result (a b : Byte) : ((cmpOp a b).result.toNat : Int) = ((a.toNat : Int) - b.toNat) % 256 :=
  toNat_ofInt_byte _

/-- The rotated byte as a number: the inserted bit, then the upper seven bits of the operand. -/
theorem rorOp_result (m : Bool) (a : Byte) (c : Bool) :
    (rorOp m a c).result.toNat = (if c = true ∧ m = true then 128 else 0) + a.toNat / 2 := by
  have h : ∀ (m c : Bool) (a : Byte),
      (rorOp m a c).result.toNat = (if c = true ∧ m = true then 128 else 0) + a.toNat / 2 := by decide
  exact h m c a

end Sys2Proof.Machine
end

