-- ==== Sys2Proof/Laws/Memory.lean ====
section
/-!
SUPPORT. What a write to a store does to a read of it (20_memory.md R52), what an image leaves in a store
(70_reset_and_hazards.md R191), and that every operation on a store keeps its canonical form.
-/

namespace Sys2Proof.Machine

/-! ## Cells -/

@[simp] theorem Memory.lookup_nil (a : Nat) : Memory.lookup [] a = Memory.unlisted := rfl

theorem Memory.lookup_erase_same (m : Memory) (a : Nat) :
    Memory.lookup (Memory.erase m a) a = Memory.unlisted := by
  induction m with
  | nil => rfl
  | cons c m ih =>
    obtain ⟨b, w⟩ := c
    by_cases h : b = a <;> simp [Memory.erase, Memory.lookup, h, ih]

theorem Memory.lookup_erase_other (m : Memory) {a b : Nat} (h : b ≠ a) :
    Memory.lookup (Memory.erase m a) b = Memory.lookup m b := by
  induction m with
  | nil => rfl
  | cons c m ih =>
    obtain ⟨k, w⟩ := c
    by_cases hk : k = a
    · have : k ≠ b := fun e => h (e.symm.trans hk)
      simp only [Memory.erase, Memory.lookup, if_pos hk, if_neg this, ih]
    · simp only [Memory.erase, Memory.lookup, if_neg hk, ih]

theorem Memory.lookup_insert_same (m : Memory) (a : Nat) (v : Byte)
    (h : ∀ c ∈ m, c.1 ≠ a) : Memory.lookup (Memory.insert m a v) a = v := by
  induction m with
  | nil => simp [Memory.insert, Memory.lookup]
  | cons c m ih =>
    obtain ⟨k, w⟩ := c
    have hk : k ≠ a := h (k, w) List.mem_cons_self
    by_cases hlt : a < k
    · simp [Memory.insert, Memory.lookup, hlt]
    · simp only [Memory.insert, Memory.lookup, if_neg hlt, if_neg hk]
      exact ih fun c hc => h c (List.mem_cons_of_mem _ hc)

theorem Memory.lookup_insert_other (m : Memory) {a b : Nat} (v : Byte) (h : b ≠ a) :
    Memory.lookup (Memory.insert m a v) b = Memory.lookup m b := by
  induction m with
  | nil => simp [Memory.insert, Memory.lookup, Ne.symm h]
  | cons c m ih =>
    obtain ⟨k, w⟩ := c
    by_cases hlt : a < k
    · simp [Memory.insert, Memory.lookup, hlt, Ne.symm h]
    · simp only [Memory.insert, Memory.lookup, if_neg hlt, ih]

theorem Memory.erase_key_ne (m : Memory) (a : Nat) : ∀ c ∈ Memory.erase m a, c.1 ≠ a := by
  induction m with
  | nil => simp [Memory.erase]
  | cons c m ih =>
    obtain ⟨k, w⟩ := c
    by_cases hk : k = a
    · simpa only [Memory.erase, if_pos hk] using ih
    · intro c hc
      simp only [Memory.erase, if_neg hk, List.mem_cons] at hc
      rcases hc with rfl | hc
      · exact hk
      · exact ih c hc

/-! ## Reads after writes (R52) -/

/-- The byte written is the byte read, in any list of cells. -/
theorem Memory.read_write_same (m : Memory) (a : Addr) (v : Byte) :
    Memory.read (Memory.write m a v) a = v := by
  unfold Memory.read Memory.write
  by_cases h : v = Memory.unlisted
  · rw [if_pos h, Memory.lookup_erase_same, h]
  · rw [if_neg h, Memory.lookup_insert_same _ _ _ (Memory.erase_key_ne m a.toNat)]

/-- Every other byte reads as before, in any list of cells. -/
theorem Memory.read_write_other (m : Memory) {a b : Addr} (v : Byte) (h : b ≠ a) :
    Memory.read (Memory.write m a v) b = Memory.read m b := by
  have hn : b.toNat ≠ a.toNat := fun e => h (BitVec.eq_of_toNat_eq e)
  unfold Memory.read Memory.write
  by_cases hv : v = Memory.unlisted
  · rw [if_pos hv, Memory.lookup_erase_other _ hn]
  · rw [if_neg hv, Memory.lookup_insert_other _ _ hn, Memory.lookup_erase_other _ hn]

/-! ## The canonical form -/

theorem Memory.wfFrom_cons {lo a : Nat} {v : Byte} {m : Memory} :
    Memory.wfFrom lo ((a, v) :: m) = true ↔
      lo ≤ a ∧ a < Memory.size ∧ v ≠ Memory.unlisted ∧ Memory.wfFrom (a + 1) m = true := by
  simp [Memory.wfFrom, and_assoc]

theorem Memory.wfFrom_mono {lo lo' : Nat} {m : Memory} (h : Memory.wfFrom lo m = true) (hle : lo' ≤ lo) :
    Memory.wfFrom lo' m = true := by
  cases m with
  | nil => rfl
  | cons c m =>
    obtain ⟨a, v⟩ := c
    rw [Memory.wfFrom_cons] at h ⊢
    exact ⟨hle.trans h.1, h.2⟩

theorem Memory.wfFrom_erase {lo : Nat} {m : Memory} (h : Memory.wfFrom lo m = true) (a : Nat) :
    Memory.wfFrom lo (Memory.erase m a) = true := by
  induction m generalizing lo with
  | nil => rfl
  | cons c m ih =>
    obtain ⟨b, w⟩ := c
    rw [Memory.wfFrom_cons] at h
    by_cases hb : b = a
    · simp only [Memory.erase, if_pos hb]
      exact ih (Memory.wfFrom_mono h.2.2.2 (by omega))
    · simp only [Memory.erase, if_neg hb]
      exact Memory.wfFrom_cons.2 ⟨h.1, h.2.1, h.2.2.1, ih h.2.2.2⟩

theorem Memory.wfFrom_insert {lo : Nat} {m : Memory} (h : Memory.wfFrom lo m = true) {a : Nat} {v : Byte}
    (hlo : lo ≤ a) (ha : a < Memory.size) (hv : v ≠ Memory.unlisted) (hkey : ∀ c ∈ m, c.1 ≠ a) :
    Memory.wfFrom lo (Memory.insert m a v) = true := by
  induction m generalizing lo with
  | nil => exact Memory.wfFrom_cons.2 ⟨hlo, ha, hv, rfl⟩
  | cons c m ih =>
    obtain ⟨b, w⟩ := c
    have hb : b ≠ a := hkey (b, w) List.mem_cons_self
    rw [Memory.wfFrom_cons] at h
    by_cases hlt : a < b
    · simp only [Memory.insert, if_pos hlt]
      exact Memory.wfFrom_cons.2 ⟨hlo, ha, hv, Memory.wfFrom_cons.2 ⟨hlt, h.2⟩⟩
    · simp only [Memory.insert, if_neg hlt]
      refine Memory.wfFrom_cons.2 ⟨h.1, h.2.1, h.2.2.1, ih h.2.2.2 (by omega) ?_⟩
      exact fun c hc => hkey c (List.mem_cons_of_mem _ hc)

/-- A write keeps the canonical form. -/
theorem Memory.wf_write {m : Memory} (h : Memory.wf m = true) (a : Addr) (v : Byte) :
    Memory.wf (Memory.write m a v) = true := by
  unfold Memory.write
  by_cases hv : v = Memory.unlisted
  · rw [if_pos hv]
    exact Memory.wfFrom_erase h _
  · rw [if_neg hv]
    exact Memory.wfFrom_insert (Memory.wfFrom_erase h _) (Nat.zero_le _) a.isLt hv (Memory.erase_key_ne m _)

/-- An empty store has the canonical form. -/
theorem Memory.wf_nil : Memory.wf [] = true := rfl

theorem Memory.wfFrom_ofImageFrom (image : List Byte) (a : Nat) :
    Memory.wfFrom a (Memory.ofImageFrom a image) = true := by
  induction image generalizing a with
  | nil => rfl
  | cons v image ih =>
    unfold Memory.ofImageFrom
    split
    · split
      · exact Memory.wfFrom_mono (ih (a + 1)) (by omega)
      · exact Memory.wfFrom_cons.2 ⟨le_refl a, by assumption, by assumption, ih (a + 1)⟩
    · rfl

/-- The store made from an image has the canonical form. -/
theorem Memory.wf_ofImage (image : List Byte) : Memory.wf (Memory.ofImage image) = true :=
  Memory.wfFrom_ofImageFrom image 0

/-- The reset machine's stores have the canonical form. -/
theorem State.reset_stores_wf : Memory.wf State.reset.prog = true ∧ Memory.wf State.reset.data = true := ⟨rfl, rfl⟩

end Sys2Proof.Machine
end

