-- ==== Sys2Proof/Laws/State.lean ====
section
/-!
SUPPORT. What each update of the state leaves in each field, true by definition, so that no proof unfolds a record update.
-/

namespace Sys2Proof.Machine

/-! ## `State.setAcc` -/

@[simp] theorem State.setAcc_acc (s : State) (v : Byte) : (s.setAcc v).acc = v := rfl

@[simp] theorem State.setAcc_regs (s : State) (v : Byte) : (s.setAcc v).regs = s.regs := rfl

@[simp] theorem State.setAcc_pc (s : State) (v : Byte) : (s.setAcc v).pc = s.pc := rfl

@[simp] theorem State.setAcc_flags (s : State) (v : Byte) : (s.setAcc v).flags = s.flags := rfl

@[simp] theorem State.setAcc_prog (s : State) (v : Byte) : (s.setAcc v).prog = s.prog := rfl

@[simp] theorem State.setAcc_data (s : State) (v : Byte) : (s.setAcc v).data = s.data := rfl

@[simp] theorem State.setAcc_continueOut (s : State) (v : Byte) : (s.setAcc v).continueOut = s.continueOut := rfl

/-! ## `State.setRegs` -/

@[simp] theorem State.setRegs_acc (s : State) (rf : RegFile) : (s.setRegs rf).acc = s.acc := rfl

@[simp] theorem State.setRegs_regs (s : State) (rf : RegFile) : (s.setRegs rf).regs = rf := rfl

@[simp] theorem State.setRegs_pc (s : State) (rf : RegFile) : (s.setRegs rf).pc = s.pc := rfl

@[simp] theorem State.setRegs_flags (s : State) (rf : RegFile) : (s.setRegs rf).flags = s.flags := rfl

@[simp] theorem State.setRegs_prog (s : State) (rf : RegFile) : (s.setRegs rf).prog = s.prog := rfl

@[simp] theorem State.setRegs_data (s : State) (rf : RegFile) : (s.setRegs rf).data = s.data := rfl

@[simp] theorem State.setRegs_continueOut (s : State) (rf : RegFile) : (s.setRegs rf).continueOut = s.continueOut := rfl

/-! ## `State.setPc` -/

@[simp] theorem State.setPc_acc (s : State) (a : Addr) : (s.setPc a).acc = s.acc := rfl

@[simp] theorem State.setPc_regs (s : State) (a : Addr) : (s.setPc a).regs = s.regs := rfl

@[simp] theorem State.setPc_pc (s : State) (a : Addr) : (s.setPc a).pc = a := rfl

@[simp] theorem State.setPc_flags (s : State) (a : Addr) : (s.setPc a).flags = s.flags := rfl

@[simp] theorem State.setPc_prog (s : State) (a : Addr) : (s.setPc a).prog = s.prog := rfl

@[simp] theorem State.setPc_data (s : State) (a : Addr) : (s.setPc a).data = s.data := rfl

@[simp] theorem State.setPc_continueOut (s : State) (a : Addr) : (s.setPc a).continueOut = s.continueOut := rfl

/-! ## `State.setFlags` -/

@[simp] theorem State.setFlags_acc (s : State) (f : Flags) : (s.setFlags f).acc = s.acc := rfl

@[simp] theorem State.setFlags_regs (s : State) (f : Flags) : (s.setFlags f).regs = s.regs := rfl

@[simp] theorem State.setFlags_pc (s : State) (f : Flags) : (s.setFlags f).pc = s.pc := rfl

@[simp] theorem State.setFlags_flags (s : State) (f : Flags) : (s.setFlags f).flags = f := rfl

@[simp] theorem State.setFlags_prog (s : State) (f : Flags) : (s.setFlags f).prog = s.prog := rfl

@[simp] theorem State.setFlags_data (s : State) (f : Flags) : (s.setFlags f).data = s.data := rfl

@[simp] theorem State.setFlags_continueOut (s : State) (f : Flags) : (s.setFlags f).continueOut = s.continueOut := rfl

/-! ## `State.setProg` -/

@[simp] theorem State.setProg_acc (s : State) (m : Memory) : (s.setProg m).acc = s.acc := rfl

@[simp] theorem State.setProg_regs (s : State) (m : Memory) : (s.setProg m).regs = s.regs := rfl

@[simp] theorem State.setProg_pc (s : State) (m : Memory) : (s.setProg m).pc = s.pc := rfl

@[simp] theorem State.setProg_flags (s : State) (m : Memory) : (s.setProg m).flags = s.flags := rfl

@[simp] theorem State.setProg_prog (s : State) (m : Memory) : (s.setProg m).prog = m := rfl

@[simp] theorem State.setProg_data (s : State) (m : Memory) : (s.setProg m).data = s.data := rfl

@[simp] theorem State.setProg_continueOut (s : State) (m : Memory) : (s.setProg m).continueOut = s.continueOut := rfl

/-! ## `State.setData` -/

@[simp] theorem State.setData_acc (s : State) (m : Memory) : (s.setData m).acc = s.acc := rfl

@[simp] theorem State.setData_regs (s : State) (m : Memory) : (s.setData m).regs = s.regs := rfl

@[simp] theorem State.setData_pc (s : State) (m : Memory) : (s.setData m).pc = s.pc := rfl

@[simp] theorem State.setData_flags (s : State) (m : Memory) : (s.setData m).flags = s.flags := rfl

@[simp] theorem State.setData_prog (s : State) (m : Memory) : (s.setData m).prog = s.prog := rfl

@[simp] theorem State.setData_data (s : State) (m : Memory) : (s.setData m).data = m := rfl

@[simp] theorem State.setData_continueOut (s : State) (m : Memory) : (s.setData m).continueOut = s.continueOut := rfl

/-! ## `State.report` -/

@[simp] theorem State.report_acc (s : State) (b : Bool) : (s.report b).acc = s.acc := rfl

@[simp] theorem State.report_regs (s : State) (b : Bool) : (s.report b).regs = s.regs := rfl

@[simp] theorem State.report_pc (s : State) (b : Bool) : (s.report b).pc = s.pc := rfl

@[simp] theorem State.report_flags (s : State) (b : Bool) : (s.report b).flags = s.flags := rfl

@[simp] theorem State.report_prog (s : State) (b : Bool) : (s.report b).prog = s.prog := rfl

@[simp] theorem State.report_data (s : State) (b : Bool) : (s.report b).data = s.data := rfl

@[simp] theorem State.report_continueOut (s : State) (b : Bool) : (s.report b).continueOut = b := rfl

/-! ## `State.writeReg` -/

@[simp] theorem State.writeReg_acc (s : State) (i : RegIndex) (v : Byte) : (s.writeReg i v).acc = s.acc := rfl

@[simp] theorem State.writeReg_regs (s : State) (i : RegIndex) (v : Byte) : (s.writeReg i v).regs = s.regs.write i v := rfl

@[simp] theorem State.writeReg_pc (s : State) (i : RegIndex) (v : Byte) : (s.writeReg i v).pc = s.pc := rfl

@[simp] theorem State.writeReg_flags (s : State) (i : RegIndex) (v : Byte) : (s.writeReg i v).flags = s.flags := rfl

@[simp] theorem State.writeReg_prog (s : State) (i : RegIndex) (v : Byte) : (s.writeReg i v).prog = s.prog := rfl

@[simp] theorem State.writeReg_data (s : State) (i : RegIndex) (v : Byte) : (s.writeReg i v).data = s.data := rfl

@[simp] theorem State.writeReg_continueOut (s : State) (i : RegIndex) (v : Byte) : (s.writeReg i v).continueOut = s.continueOut := rfl

/-! ## `State.writeData` -/

@[simp] theorem State.writeData_acc (s : State) (a : Addr) (v : Byte) : (s.writeData a v).acc = s.acc := rfl

@[simp] theorem State.writeData_regs (s : State) (a : Addr) (v : Byte) : (s.writeData a v).regs = s.regs := rfl

@[simp] theorem State.writeData_pc (s : State) (a : Addr) (v : Byte) : (s.writeData a v).pc = s.pc := rfl

@[simp] theorem State.writeData_flags (s : State) (a : Addr) (v : Byte) : (s.writeData a v).flags = s.flags := rfl

@[simp] theorem State.writeData_prog (s : State) (a : Addr) (v : Byte) : (s.writeData a v).prog = s.prog := rfl

@[simp] theorem State.writeData_data (s : State) (a : Addr) (v : Byte) : (s.writeData a v).data = Memory.write s.data a v := rfl

@[simp] theorem State.writeData_continueOut (s : State) (a : Addr) (v : Byte) : (s.writeData a v).continueOut = s.continueOut := rfl

/-! ## `State.writeProg` -/

@[simp] theorem State.writeProg_acc (s : State) (a : Addr) (v : Byte) : (s.writeProg a v).acc = s.acc := rfl

@[simp] theorem State.writeProg_regs (s : State) (a : Addr) (v : Byte) : (s.writeProg a v).regs = s.regs := rfl

@[simp] theorem State.writeProg_pc (s : State) (a : Addr) (v : Byte) : (s.writeProg a v).pc = s.pc := rfl

@[simp] theorem State.writeProg_flags (s : State) (a : Addr) (v : Byte) : (s.writeProg a v).flags = s.flags := rfl

@[simp] theorem State.writeProg_prog (s : State) (a : Addr) (v : Byte) : (s.writeProg a v).prog = Memory.write s.prog a v := rfl

@[simp] theorem State.writeProg_data (s : State) (a : Addr) (v : Byte) : (s.writeProg a v).data = s.data := rfl

@[simp] theorem State.writeProg_continueOut (s : State) (a : Addr) (v : Byte) : (s.writeProg a v).continueOut = s.continueOut := rfl

/-! ## Reads after an update of another field -/

@[simp] theorem State.readReg_setAcc (s : State) (v : Byte) (i : RegIndex) : (s.setAcc v).readReg i = s.readReg i := rfl

@[simp] theorem State.readProg_setAcc (s : State) (v : Byte) (a : Addr) : (s.setAcc v).readProg a = s.readProg a := rfl

@[simp] theorem State.readData_setAcc (s : State) (v : Byte) (a : Addr) : (s.setAcc v).readData a = s.readData a := rfl

@[simp] theorem marOperand_setAcc (s : State) (v : Byte) : marOperand (s.setAcc v) = marOperand s := rfl

@[simp] theorem State.readProg_setRegs (s : State) (rf : RegFile) (a : Addr) : (s.setRegs rf).readProg a = s.readProg a := rfl

@[simp] theorem State.readData_setRegs (s : State) (rf : RegFile) (a : Addr) : (s.setRegs rf).readData a = s.readData a := rfl

@[simp] theorem State.readReg_setPc (s : State) (a : Addr) (i : RegIndex) : (s.setPc a).readReg i = s.readReg i := rfl

@[simp] theorem State.readProg_setPc (s : State) (a c : Addr) : (s.setPc a).readProg c = s.readProg c := rfl

@[simp] theorem State.readData_setPc (s : State) (a c : Addr) : (s.setPc a).readData c = s.readData c := rfl

@[simp] theorem marOperand_setPc (s : State) (a : Addr) : marOperand (s.setPc a) = marOperand s := rfl

@[simp] theorem State.readReg_setFlags (s : State) (f : Flags) (i : RegIndex) : (s.setFlags f).readReg i = s.readReg i := rfl

@[simp] theorem State.readProg_setFlags (s : State) (f : Flags) (a : Addr) : (s.setFlags f).readProg a = s.readProg a := rfl

@[simp] theorem State.readData_setFlags (s : State) (f : Flags) (a : Addr) : (s.setFlags f).readData a = s.readData a := rfl

@[simp] theorem marOperand_setFlags (s : State) (f : Flags) : marOperand (s.setFlags f) = marOperand s := rfl

@[simp] theorem State.readReg_setProg (s : State) (m : Memory) (i : RegIndex) : (s.setProg m).readReg i = s.readReg i := rfl

@[simp] theorem State.readData_setProg (s : State) (m : Memory) (a : Addr) : (s.setProg m).readData a = s.readData a := rfl

@[simp] theorem marOperand_setProg (s : State) (m : Memory) : marOperand (s.setProg m) = marOperand s := rfl

@[simp] theorem State.readReg_setData (s : State) (m : Memory) (i : RegIndex) : (s.setData m).readReg i = s.readReg i := rfl

@[simp] theorem State.readProg_setData (s : State) (m : Memory) (a : Addr) : (s.setData m).readProg a = s.readProg a := rfl

@[simp] theorem marOperand_setData (s : State) (m : Memory) : marOperand (s.setData m) = marOperand s := rfl

@[simp] theorem State.readReg_report (s : State) (b : Bool) (i : RegIndex) : (s.report b).readReg i = s.readReg i := rfl

@[simp] theorem State.readProg_report (s : State) (b : Bool) (a : Addr) : (s.report b).readProg a = s.readProg a := rfl

@[simp] theorem State.readData_report (s : State) (b : Bool) (a : Addr) : (s.report b).readData a = s.readData a := rfl

@[simp] theorem marOperand_report (s : State) (b : Bool) : marOperand (s.report b) = marOperand s := rfl

@[simp] theorem State.readProg_writeReg (s : State) (i : RegIndex) (v : Byte) (a : Addr) :
    (s.writeReg i v).readProg a = s.readProg a := rfl

@[simp] theorem State.readData_writeReg (s : State) (i : RegIndex) (v : Byte) (a : Addr) :
    (s.writeReg i v).readData a = s.readData a := rfl

@[simp] theorem State.readReg_writeData (s : State) (a : Addr) (v : Byte) (i : RegIndex) :
    (s.writeData a v).readReg i = s.readReg i := rfl

@[simp] theorem State.readReg_writeProg (s : State) (a : Addr) (v : Byte) (i : RegIndex) :
    (s.writeProg a v).readReg i = s.readReg i := rfl

/-- Two states with the same fields are the same state. -/
theorem State.ext_fields {s t : State} (h₁ : s.acc = t.acc) (h₂ : s.regs = t.regs) (h₃ : s.pc = t.pc)
    (h₄ : s.flags = t.flags) (h₅ : s.prog = t.prog) (h₆ : s.data = t.data) (h₇ : s.continueOut = t.continueOut) :
    s = t := by
  cases s
  cases t
  simp_all

end Sys2Proof.Machine
end

