-- ==== Sys2Proof/Laws/Registers.lean ====
section
/-!
SUPPORT. What a write at the register-file port does to a read at it (10_state.md R21), and the fixed pairs of registers.
-/

namespace Sys2Proof.Machine

theorem RegIndex.toNat_cases (i : RegIndex) :
    i.toNat = 0 ∨ i.toNat = 1 ∨ i.toNat = 2 ∨ i.toNat = 3 ∨ i.toNat = 4 ∨ i.toNat = 5 ∨ i.toNat = 6 ∨ i.toNat = 7 ∨
      8 ≤ i.toNat := by omega

/-- A read at an index of 8 or more answers 0. -/
theorem RegFile.read_of_ge {i : RegIndex} (rf : RegFile) (h : 8 ≤ i.toNat) : rf.read i = 0#8 := by
  unfold RegFile.read
  split <;> first | omega | rfl

/-- A write at an index of 8 or more changes nothing. -/
theorem RegFile.write_of_ge {i : RegIndex} (rf : RegFile) (v : Byte) (h : 8 ≤ i.toNat) : rf.write i v = rf := by
  unfold RegFile.write
  split <;> first | omega | rfl

/-- A slot reads as what was written to it. -/
theorem RegFile.read_write_same {i : RegIndex} (rf : RegFile) (v : Byte) (h : i.toNat < 8) :
    (rf.write i v).read i = v := by
  unfold RegFile.read RegFile.write
  rcases RegIndex.toNat_cases i with e | e | e | e | e | e | e | e | e <;> first | omega | simp [e]

/-- A write leaves every other index as it was. -/
theorem RegFile.read_write_other {i j : RegIndex} (rf : RegFile) (v : Byte) (h : j ≠ i) :
    (rf.write i v).read j = rf.read j := by
  have hn : j.toNat ≠ i.toNat := fun e => h (BitVec.eq_of_toNat_eq e)
  by_cases hi : 8 ≤ i.toNat
  · rw [RegFile.write_of_ge rf v hi]
  · unfold RegFile.read RegFile.write
    rcases RegIndex.toNat_cases i with e | e | e | e | e | e | e | e | e <;>
      first
        | omega
        | (simp only [e]
           rcases RegIndex.toNat_cases j with k | k | k | k | k | k | k | k | k <;>
             first
               | omega
               | simp [k]
               | (split <;> first | omega | rfl))

/-- Two register files that answer every read alike are the same. -/
theorem RegFile.ext_read {rf rf' : RegFile} (h : ∀ i : RegIndex, rf.read i = rf'.read i) : rf = rf' := by
  have h0 := h 0#8
  have h1 := h 1#8
  have h2 := h 2#8
  have h3 := h 3#8
  have h4 := h 4#8
  have h5 := h 5#8
  have h6 := h 6#8
  have h7 := h 7#8
  cases rf
  cases rf'
  simp_all [RegFile.read]

theorem State.readReg_writeReg_same (s : State) {i : RegIndex} (v : Byte) (h : i.toNat < 8) :
    (s.writeReg i v).readReg i = v := RegFile.read_write_same s.regs v h

theorem State.readReg_writeReg_other (s : State) {i j : RegIndex} (v : Byte) (h : j ≠ i) :
    (s.writeReg i v).readReg j = s.readReg j := RegFile.read_write_other s.regs v h

/-- What the fixed register operands of code 23 hold after the write, and every other register. -/
theorem readReg_writeLinkOperands (link : Addr) (s : State) (j : RegIndex) :
    (writeLinkOperands link s).readReg j =
      if j = 3#8 then link.extractLsb' 8 8 else if j = 2#8 then link.extractLsb' 0 8 else s.readReg j := by
  unfold writeLinkOperands
  by_cases h3 : j = 3#8
  · subst h3
    exact State.readReg_writeReg_same _ _ (by decide)
  · rw [if_neg h3, State.readReg_writeReg_other _ _ h3]
    by_cases h2 : j = 2#8
    · subst h2
      exact State.readReg_writeReg_same _ _ (by decide)
    · rw [if_neg h2, State.readReg_writeReg_other _ _ h2]

/-- The fixed register operands of code 23 are a write of the register file alone. -/
theorem writeLinkOperands_eq (link : Addr) (s : State) :
    writeLinkOperands link s =
      s.setRegs ((s.regs.write 2#8 (link.extractLsb' 0 8)).write 3#8 (link.extractLsb' 8 8)) := rfl

end Sys2Proof.Machine
end

