-- ==== Sys2Proof/Laws/Ops.lean ====
section
/-!
SUPPORT. What each shared operation can do, said once: sequencing, the program-counter increment, the end of a step, the
ALU frames and the jumps.
-/

namespace Sys2Proof.Machine

/-! ## Sequencing -/

@[simp] theorem andThen_next (s : State) (f : State → Result) : andThen (.next s) f = f s := rfl

@[simp] theorem andThen_fault (r : Fault) (f : State → Result) : andThen (.fault r) f = .fault r := rfl

@[simp] theorem andThen_refused (r : Refusal) (f : State → Result) : andThen (.refused r) f = .refused r := rfl

/-- A sequence that answers a next state went through a middle one. -/
theorem andThen_eq_next {o : Result} {f : State → Result} {t : State} (h : andThen o f = .next t) :
    ∃ s, o = .next s ∧ f s = .next t := by
  cases o with
  | next s => exact ⟨s, rfl, h⟩
  | fault r => cases h
  | refused r => cases h

/-- A sequence that faults does so in its first or in its second part. -/
theorem andThen_eq_fault {o : Result} {f : State → Result} {r : Fault} (h : andThen o f = .fault r) :
    o = .fault r ∨ ∃ s, o = .next s ∧ f s = .fault r := by
  cases o with
  | next s => exact .inr ⟨s, rfl, h⟩
  | fault r' => exact .inl h
  | refused r' => cases h

/-- A sequence that refuses does so in its first or in its second part. -/
theorem andThen_eq_refused {o : Result} {f : State → Result} {r : Refusal} (h : andThen o f = .refused r) :
    o = .refused r ∨ ∃ s, o = .next s ∧ f s = .refused r := by
  cases o with
  | next s => exact .inr ⟨s, rfl, h⟩
  | fault r' => cases h
  | refused r' => exact .inl h

/-- The end of a step. -/
theorem continueWith_eq (b : Bool) (s : State) : continueWith b s = .next (s.report b) := rfl

/-! ## The program-counter increment (R27) -/

/-- Below 0xFFFF the increment adds one, whatever the parameter. -/
theorem pcInc_of_ne {mode : PcOverflow} {s : State} (h : s.pc ≠ 0xFFFF#16) :
    pcInc mode s = .next (s.setPc (s.pc + 1#16)) := by
  have hn : s.pc.toNat ≠ 65535 := fun e => h (BitVec.eq_of_toNat_eq e)
  exact if_pos (by omega)

/-- At 0xFFFF with `Wrap` it goes to 0. -/
theorem pcInc_wrap {s : State} (h : s.pc = 0xFFFF#16) : pcInc .wrap s = .next (s.setPc 0#16) := by
  unfold pcInc
  rw [h]
  rfl

/-- At 0xFFFF with `Fault` it faults. -/
theorem pcInc_fault {s : State} (h : s.pc = 0xFFFF#16) : pcInc .fault s = .fault .pcOverflow := by
  unfold pcInc
  rw [h]
  rfl

/-- Everything the increment can do. -/
theorem pcInc_cases (mode : PcOverflow) (s : State) :
    pcInc mode s = .next (s.setPc (s.pc + 1#16)) ∨
      (s.pc = 0xFFFF#16 ∧ mode = .fault ∧ pcInc mode s = .fault .pcOverflow) := by
  by_cases h : s.pc = 0xFFFF#16
  · cases mode with
    | wrap => exact .inl (by rw [pcInc_wrap h, h]; rfl)
    | fault => exact .inr ⟨h, rfl, pcInc_fault h⟩
  · exact .inl (pcInc_of_ne h)

/-- An increment that answers a next state added one modulo 65536 and changed nothing else. -/
theorem pcInc_eq_next {mode : PcOverflow} {s t : State} (h : pcInc mode s = .next t) :
    t = s.setPc (s.pc + 1#16) := by
  rcases pcInc_cases mode s with e | ⟨_, _, e⟩
  · rw [e] at h
    cases h
    rfl
  · rw [e] at h
    cases h

/-! ## The ALU frames (R100) -/

/-- Codes 0 to 7: the result in the accumulator, the flags from it, nothing else but the port. -/
theorem aluStore_eq (o : AluOut) (s : State) :
    aluStore o s =
      .next { s with
        acc := o.result,
        flags := { carry := o.carry, zero := decide (o.result = 0#8), parity := o.result.getLsbD 0,
                   sign := o.result.getLsbD 7 },
        continueOut := true } := rfl

/-- Code 8: the flags from the result, nothing else but the port. -/
theorem aluFlagsOnly_eq (o : AluOut) (s : State) :
    aluFlagsOnly o s =
      .next { s with
        flags := { carry := o.carry, zero := decide (o.result = 0#8), parity := o.result.getLsbD 0,
                   sign := o.result.getLsbD 7 },
        continueOut := true } := rfl

/-! ## The jumps (R130) -/

/-- A jump always answers a next state; only the pc and the port can differ. -/
theorem jumpWhen_eq (taken : Bool) (s : State) :
    jumpWhen taken s = .next { s with pc := if taken then marOperand s else s.pc, continueOut := true } := by
  cases taken <;> rfl

end Sys2Proof.Machine
end

