-- ==== Sys2Proof/Laws/PerInstr.lean ====
section
/-!
SUPPORT. One lemma per instruction about its encoding: the opcode byte holds its code (30_encoding.md R70), and the
number of bytes is the one that the code tells (R72).
-/

namespace Sys2Proof.Laws

/-- The first byte of the encoding has the instruction's code in its low five bits, and the length is told by the code. -/
def EncodeCode.Statement (i : Instr) : Prop :=
  (encode i).head?.map opcodeField = some i.code ∧ (encode i).length = lengthOfCode i.code

/-- The first byte of every encoding has the code in its low five bits. -/
theorem encode_head_code (i : Instr) : (encode i).head?.map opcodeField = some i.code :=
  congrArg some (opcodeField_opcodeByte _ _)

theorem EncodeCode.add (r : RegIndex) : EncodeCode.Statement (.add r) := ⟨encode_head_code _, rfl⟩

theorem EncodeCode.sub (r : RegIndex) : EncodeCode.Statement (.sub r) := ⟨encode_head_code _, rfl⟩

theorem EncodeCode.adc (r : RegIndex) : EncodeCode.Statement (.adc r) := ⟨encode_head_code _, rfl⟩

theorem EncodeCode.sbc (r : RegIndex) : EncodeCode.Statement (.sbc r) := ⟨encode_head_code _, rfl⟩

theorem EncodeCode.ror : EncodeCode.Statement .ror := ⟨encode_head_code _, rfl⟩

theorem EncodeCode.nor (r : RegIndex) : EncodeCode.Statement (.nor r) := ⟨encode_head_code _, rfl⟩

theorem EncodeCode.and (r : RegIndex) : EncodeCode.Statement (.and r) := ⟨encode_head_code _, rfl⟩

theorem EncodeCode.reserved7 : EncodeCode.Statement .reserved7 := ⟨encode_head_code _, rfl⟩

theorem EncodeCode.cmp (r : RegIndex) : EncodeCode.Statement (.cmp r) := ⟨encode_head_code _, rfl⟩

theorem EncodeCode.setCarry : EncodeCode.Statement .setCarry := ⟨encode_head_code _, rfl⟩

theorem EncodeCode.clearCarry : EncodeCode.Statement .clearCarry := ⟨encode_head_code _, rfl⟩

theorem EncodeCode.loadAcc (r : RegIndex) : EncodeCode.Statement (.loadAcc r) := ⟨encode_head_code _, rfl⟩

theorem EncodeCode.storeAcc (r : RegIndex) : EncodeCode.Statement (.storeAcc r) := ⟨encode_head_code _, rfl⟩

theorem EncodeCode.jmp : EncodeCode.Statement .jmp := ⟨encode_head_code _, rfl⟩

theorem EncodeCode.jmpIfCarry : EncodeCode.Statement .jmpIfCarry := ⟨encode_head_code _, rfl⟩

theorem EncodeCode.jmpIfNotCarry : EncodeCode.Statement .jmpIfNotCarry := ⟨encode_head_code _, rfl⟩

theorem EncodeCode.jmpIfZero : EncodeCode.Statement .jmpIfZero := ⟨encode_head_code _, rfl⟩

theorem EncodeCode.jmpIfNotZero : EncodeCode.Statement .jmpIfNotZero := ⟨encode_head_code _, rfl⟩

theorem EncodeCode.jmpIfSign : EncodeCode.Statement .jmpIfSign := ⟨encode_head_code _, rfl⟩

theorem EncodeCode.jmpIfNotSign : EncodeCode.Statement .jmpIfNotSign := ⟨encode_head_code _, rfl⟩

theorem EncodeCode.jmpIfParity : EncodeCode.Statement .jmpIfParity := ⟨encode_head_code _, rfl⟩

theorem EncodeCode.jmpIfNotParity : EncodeCode.Statement .jmpIfNotParity := ⟨encode_head_code _, rfl⟩

theorem EncodeCode.loadImmediate (r : RegIndex) (imm : Byte) : EncodeCode.Statement (.loadImmediate r imm) := ⟨encode_head_code _, rfl⟩

theorem EncodeCode.callSave : EncodeCode.Statement .callSave := ⟨encode_head_code _, rfl⟩

theorem EncodeCode.storeMem (r : RegIndex) : EncodeCode.Statement (.storeMem r) := ⟨encode_head_code _, rfl⟩

theorem EncodeCode.loadMem (r : RegIndex) : EncodeCode.Statement (.loadMem r) := ⟨encode_head_code _, rfl⟩

theorem EncodeCode.unused26 : EncodeCode.Statement .unused26 := ⟨encode_head_code _, rfl⟩

theorem EncodeCode.unused27 : EncodeCode.Statement .unused27 := ⟨encode_head_code _, rfl⟩

theorem EncodeCode.unused28 : EncodeCode.Statement .unused28 := ⟨encode_head_code _, rfl⟩

theorem EncodeCode.halt : EncodeCode.Statement .halt := ⟨encode_head_code _, rfl⟩

theorem EncodeCode.unused30 : EncodeCode.Statement .unused30 := ⟨encode_head_code _, rfl⟩

theorem EncodeCode.unused31 : EncodeCode.Statement .unused31 := ⟨encode_head_code _, rfl⟩

end Sys2Proof.Laws
end

