-- ==== Sys2Proof/Tests/Slice0.lean ====
section
/-!
SUPPORT. The model's own tests. Expected results are those of spec/95_test_vectors.md, by its section, or worked out by
hand from the rule named. After them, the witnesses: for each statement that has hypotheses, states and operands that
meet them, at the ends of their ranges.
-/

namespace Sys2Proof.Tests

open Sys2Proof.Machine Sys2Proof.Claims

/-! ## Helpers -/

/-- The next state, if there is one. -/
def after : Result → Option State
  | .next s => some s
  | .fault _ => none
  | .refused _ => none

/-- A result that has a next state is one. -/
theorem next_of_after {o : Result} (h : (after o).isSome = true) : ∃ t, o = .next t := by
  cases o with
  | next t => exact ⟨t, rfl⟩
  | fault r => cases h
  | refused r => cases h

/-- A small state: accumulator, r1 and carry given, the rest as after reset. -/
def aluState (acc r1 : Byte) (c : Bool) : State :=
  { State.reset with
    acc := acc, regs := { State.reset.regs with r1 := r1 }, flags := { State.reset.flags with carry := c } }

/-- The accumulator and the flags C, Z, S, P after an instruction. -/
def accCZSP (i : Instr) (s : State) : Option (Byte × Bool × Bool × Bool × Bool) :=
  (after (exec i s)).map fun t => (t.acc, t.flags.carry, t.flags.zero, t.flags.sign, t.flags.parity)

/-- A state at `pc` with bytes of the program store, MAR 0x1234 and the flags given. -/
def runState (pc : Addr) (prog : Memory) (f : Flags) : State :=
  { State.reset with pc := pc, prog := prog, flags := f, regs := { State.reset.regs with marl := 0x34#8, marh := 0x12#8 } }

/-- All four flags false, all four true. -/
def noFlags : Flags := ⟨false, false, false, false⟩

def allFlags : Flags := ⟨true, true, true, true⟩

/-- The pc after one step. -/
def pcAfterStep (s : State) : Option Addr := (after (step s)).map State.pc

/-! ## Every constructor's decoding: the row's pattern of spec/opcode_table.json, with R written in (R70, R75) -/

theorem test_decode_add : decode [0b10100000#8, 0x1D#8] = .ok (.add 5#8) [0x1D#8] := by decide

theorem test_decode_sub : decode [0b01000001#8, 0x1D#8] = .ok (.sub 2#8) [0x1D#8] := by decide

theorem test_decode_adc : decode [0b11100010#8, 0x1D#8] = .ok (.adc 7#8) [0x1D#8] := by decide

theorem test_decode_sbc : decode [0b01100011#8, 0x1D#8] = .ok (.sbc 3#8) [0x1D#8] := by decide

theorem test_decode_ror : decode [0b00100100#8, 0x1D#8] = .ok .ror [0x1D#8] := by decide

theorem test_decode_nor : decode [0b11000101#8, 0x1D#8] = .ok (.nor 6#8) [0x1D#8] := by decide

theorem test_decode_and : decode [0b10000110#8, 0x1D#8] = .ok (.and 4#8) [0x1D#8] := by decide

theorem test_decode_reserved7 : decode [0b10100111#8, 0x1D#8] = .ok .reserved7 [0x1D#8] := by decide

theorem test_decode_cmp : decode [0b01001000#8, 0x1D#8] = .ok (.cmp 2#8) [0x1D#8] := by decide

theorem test_decode_setCarry : decode [0b11101001#8, 0x1D#8] = .ok .setCarry [0x1D#8] := by decide

theorem test_decode_clearCarry : decode [0b01101010#8, 0x1D#8] = .ok .clearCarry [0x1D#8] := by decide

theorem test_decode_loadAcc : decode [0b00101011#8, 0x1D#8] = .ok (.loadAcc 1#8) [0x1D#8] := by decide

theorem test_decode_storeAcc : decode [0b11001100#8, 0x1D#8] = .ok (.storeAcc 6#8) [0x1D#8] := by decide

theorem test_decode_jmp : decode [0b10001101#8, 0x1D#8] = .ok .jmp [0x1D#8] := by decide

theorem test_decode_jmpIfCarry : decode [0b10101110#8, 0x1D#8] = .ok .jmpIfCarry [0x1D#8] := by decide

theorem test_decode_jmpIfNotCarry : decode [0b01001111#8, 0x1D#8] = .ok .jmpIfNotCarry [0x1D#8] := by decide

theorem test_decode_jmpIfZero : decode [0b11110000#8, 0x1D#8] = .ok .jmpIfZero [0x1D#8] := by decide

theorem test_decode_jmpIfNotZero : decode [0b01110001#8, 0x1D#8] = .ok .jmpIfNotZero [0x1D#8] := by decide

theorem test_decode_jmpIfSign : decode [0b00110010#8, 0x1D#8] = .ok .jmpIfSign [0x1D#8] := by decide

theorem test_decode_jmpIfNotSign : decode [0b11010011#8, 0x1D#8] = .ok .jmpIfNotSign [0x1D#8] := by decide

theorem test_decode_jmpIfParity : decode [0b10010100#8, 0x1D#8] = .ok .jmpIfParity [0x1D#8] := by decide

theorem test_decode_jmpIfNotParity : decode [0b10110101#8, 0x1D#8] = .ok .jmpIfNotParity [0x1D#8] := by decide

theorem test_decode_loadImmediate : decode [0b01010110#8, 0xA5#8, 0x1D#8] = .ok (.loadImmediate 2#8 0xA5#8) [0x1D#8] := by decide

theorem test_decode_callSave : decode [0b11110111#8, 0x1D#8] = .ok .callSave [0x1D#8] := by decide

theorem test_decode_storeMem : decode [0b01111000#8, 0x1D#8] = .ok (.storeMem 3#8) [0x1D#8] := by decide

theorem test_decode_loadMem : decode [0b00111001#8, 0x1D#8] = .ok (.loadMem 1#8) [0x1D#8] := by decide

theorem test_decode_unused26 : decode [0b11011010#8, 0x1D#8] = .ok .unused26 [0x1D#8] := by decide

theorem test_decode_unused27 : decode [0b10011011#8, 0x1D#8] = .ok .unused27 [0x1D#8] := by decide

theorem test_decode_unused28 : decode [0b10111100#8, 0x1D#8] = .ok .unused28 [0x1D#8] := by decide

theorem test_decode_halt : decode [0b01011101#8, 0x1D#8] = .ok .halt [0x1D#8] := by decide

theorem test_decode_unused30 : decode [0b11111110#8, 0x1D#8] = .ok .unused30 [0x1D#8] := by decide

theorem test_decode_unused31 : decode [0b01111111#8, 0x1D#8] = .ok .unused31 [0x1D#8] := by decide

/-! ## Decoder refusals, table words and encodings -/

theorem test_decode_nothing : decode [] = .refused .noOpcodeByte := by decide

theorem test_decode_operand_missing : decode [0xD6#8] = .refused .noOperandByte := by decide

/-- Bit 8 on of a table word is the operand byte. -/
theorem test_table_word_operand : decodeTableWord 16 0x42F6 = some (.loadImmediate 7#8 0x42#8) := by decide

/-- Bits from `nbits` on are 0. -/
theorem test_table_word_short : decodeTableWord 8 0xF6 = some (.loadImmediate 7#8 0x00#8) := by decide

/-- R81: `set-mar` is 0xD6 lo 0xF6 hi. -/
theorem test_set_mar_bytes : (setMar 0x1234#16).flatMap encode = [0xD6#8, 0x34#8, 0xF6#8, 0x12#8] := by decide

/-- R80: the spelling of 0x6D, a `jmp` with R = 3. -/
theorem test_spell_ignored_register :
    spell 0x6D#8 0x00#8 = "jmp " ++ String.singleton (Char.ofNat 123) ++ "r=3" ++ String.singleton (Char.ofNat 125) := by
  decide

/-- R80: `load-immediate marl, 0x10`. -/
theorem test_spell_load_immediate : spell 0xD6#8 0x10#8 = "load-immediate marl, 0x10" := by decide

/-! ## WellFormed: an ill-formed term for each check -/

theorem test_ill_formed_add : (Instr.add 8#8).wellFormed = false := by decide

theorem test_ill_formed_sub : (Instr.sub 8#8).wellFormed = false := by decide

theorem test_ill_formed_adc : (Instr.adc 8#8).wellFormed = false := by decide

theorem test_ill_formed_sbc : (Instr.sbc 8#8).wellFormed = false := by decide

theorem test_ill_formed_nor : (Instr.nor 8#8).wellFormed = false := by decide

theorem test_ill_formed_and : (Instr.and 8#8).wellFormed = false := by decide

theorem test_ill_formed_cmp : (Instr.cmp 8#8).wellFormed = false := by decide

theorem test_ill_formed_loadAcc : (Instr.loadAcc 8#8).wellFormed = false := by decide

theorem test_ill_formed_storeAcc : (Instr.storeAcc 8#8).wellFormed = false := by decide

theorem test_ill_formed_loadImmediate : (Instr.loadImmediate 8#8 0x00#8).wellFormed = false := by decide

theorem test_ill_formed_storeMem : (Instr.storeMem 8#8).wellFormed = false := by decide

theorem test_ill_formed_loadMem : (Instr.loadMem 8#8).wellFormed = false := by decide

theorem test_well_formed_last_register : (Instr.loadImmediate 7#8 0xFF#8).wellFormed = true := by decide

/-! ## ALU group (95_test_vectors.md 2.2; columns acc, C, Z, S, P) -/

theorem test_add_wraps : accCZSP (.add 1#8) (aluState 0xFF#8 0x01#8 false) = some (0x00#8, true, true, false, false) := by decide

theorem test_add_ignores_carry_in : accCZSP (.add 1#8) (aluState 0x0F#8 0x01#8 true) = some (0x10#8, false, false, false, false) := by decide

theorem test_sub_sets_carry_without_borrow : accCZSP (.sub 1#8) (aluState 0x05#8 0x03#8 false) = some (0x02#8, true, false, false, false) := by decide

theorem test_sub_wraps : accCZSP (.sub 1#8) (aluState 0x00#8 0x01#8 false) = some (0xFF#8, true, false, true, true) := by decide

theorem test_adc_full : accCZSP (.adc 1#8) (aluState 0xFF#8 0xFF#8 true) = some (0xFF#8, true, false, true, true) := by decide

theorem test_adc_carry_in : accCZSP (.adc 1#8) (aluState 0x7F#8 0x00#8 true) = some (0x80#8, false, false, true, false) := by decide

theorem test_sbc_takes_carry : accCZSP (.sbc 1#8) (aluState 0x05#8 0x03#8 true) = some (0x01#8, true, false, false, true) := by decide

theorem test_sbc_wraps : accCZSP (.sbc 1#8) (aluState 0x00#8 0xFF#8 false) = some (0x01#8, true, false, false, true) := by decide

theorem test_ror_inserts_zero : accCZSP (.ror) (aluState 0xFF#8 0x00#8 false) = some (0x7F#8, true, false, false, true) := by decide

theorem test_nor_stores_result : accCZSP (.nor 1#8) (aluState 0x01#8 0x02#8 true) = some (0xFC#8, true, false, true, false) := by decide

theorem test_nor_zero : accCZSP (.nor 1#8) (aluState 0x0F#8 0xF0#8 false) = some (0x00#8, false, true, false, false) := by decide

theorem test_and_keeps_carry : accCZSP (.and 1#8) (aluState 0xFF#8 0x81#8 true) = some (0x81#8, true, false, true, true) := by decide

theorem test_and_zero : accCZSP (.and 1#8) (aluState 0x55#8 0xAA#8 false) = some (0x00#8, false, true, false, false) := by decide

theorem test_reserved7 : accCZSP (.reserved7) (aluState 0x5A#8 0x00#8 false) = some (0x00#8, false, true, false, false) := by decide

theorem test_reserved7_keeps_carry : accCZSP (.reserved7) (aluState 0x00#8 0x00#8 true) = some (0x00#8, true, true, false, false) := by decide

theorem test_cmp_keeps_acc : accCZSP (.cmp 1#8) (aluState 0x05#8 0x06#8 false) = some (0x05#8, true, false, true, true) := by decide

theorem test_cmp_equal : accCZSP (.cmp 1#8) (aluState 0x05#8 0x05#8 false) = some (0x05#8, true, true, false, false) := by decide

/-- Both values of the parameter `RorMsbWhenCarry`, with the carry 1 before. -/
theorem test_ror_parameter_zero : rorOp false 0x02#8 true = ⟨0x01#8, false⟩ := by decide

theorem test_ror_parameter_one : rorOp true 0x02#8 true = ⟨0x81#8, false⟩ := by decide

/-! ## Carry control and transfer (95_test_vectors.md 2.3) -/

theorem test_set_carry : (after (exec .setCarry State.reset)).map State.flags = some ⟨true, false, false, false⟩ := by decide

theorem test_clear_carry :
    (after (exec .clearCarry (runState 0#16 [] allFlags))).map State.flags = some ⟨false, true, true, true⟩ := by decide

/-- A loaded zero sets no flag. -/
theorem test_load_acc_zero :
    accCZSP (.loadAcc 0#8) (aluState 0x77#8 0x01#8 false) = some (0x00#8, false, false, false, false) := by decide

theorem test_store_acc_marl :
    (after (exec (.storeAcc 6#8) (aluState 0x0A#8 0x00#8 false))).map marOperand = some 0x000A#16 := by decide

/-! ## Control flow (95_test_vectors.md 2.4): opcode at 0x0040, MAR 0x1234 -/

theorem test_jmp : pcAfterStep (runState 0x0040#16 [(0x40, 0x0D#8)] noFlags) = some 0x1234#16 := by decide

theorem test_jmp_ignores_register : pcAfterStep (runState 0x0040#16 [(0x40, 0x6D#8)] allFlags) = some 0x1234#16 := by decide

theorem test_jmp_if_carry_taken : pcAfterStep (runState 0x0040#16 [(0x40, 0x0E#8)] ⟨true, false, false, false⟩) = some 0x1234#16 := by
  decide

theorem test_jmp_if_carry_not_taken : pcAfterStep (runState 0x0040#16 [(0x40, 0x0E#8)] ⟨false, true, true, true⟩) = some 0x0041#16 := by
  decide

theorem test_jmp_if_not_carry_taken : pcAfterStep (runState 0x0040#16 [(0x40, 0x0F#8)] ⟨false, true, true, true⟩) = some 0x1234#16 := by
  decide

theorem test_jmp_if_not_carry_not_taken : pcAfterStep (runState 0x0040#16 [(0x40, 0x0F#8)] ⟨true, false, false, false⟩) = some 0x0041#16 := by
  decide

theorem test_jmp_if_zero_taken : pcAfterStep (runState 0x0040#16 [(0x40, 0x10#8)] ⟨false, true, false, false⟩) = some 0x1234#16 := by
  decide

theorem test_jmp_if_zero_not_taken : pcAfterStep (runState 0x0040#16 [(0x40, 0x10#8)] ⟨true, false, true, true⟩) = some 0x0041#16 := by
  decide

theorem test_jmp_if_not_zero_taken : pcAfterStep (runState 0x0040#16 [(0x40, 0x11#8)] ⟨true, false, true, true⟩) = some 0x1234#16 := by
  decide

theorem test_jmp_if_not_zero_not_taken : pcAfterStep (runState 0x0040#16 [(0x40, 0x11#8)] ⟨false, true, false, false⟩) = some 0x0041#16 := by
  decide

theorem test_jmp_if_sign_taken : pcAfterStep (runState 0x0040#16 [(0x40, 0x12#8)] ⟨false, false, false, true⟩) = some 0x1234#16 := by
  decide

theorem test_jmp_if_sign_not_taken : pcAfterStep (runState 0x0040#16 [(0x40, 0x12#8)] ⟨true, true, true, false⟩) = some 0x0041#16 := by
  decide

theorem test_jmp_if_not_sign_taken : pcAfterStep (runState 0x0040#16 [(0x40, 0x13#8)] ⟨true, true, true, false⟩) = some 0x1234#16 := by
  decide

theorem test_jmp_if_not_sign_not_taken : pcAfterStep (runState 0x0040#16 [(0x40, 0x13#8)] ⟨false, false, false, true⟩) = some 0x0041#16 := by
  decide

theorem test_jmp_if_parity_taken : pcAfterStep (runState 0x0040#16 [(0x40, 0x14#8)] ⟨false, false, true, false⟩) = some 0x1234#16 := by
  decide

theorem test_jmp_if_parity_not_taken : pcAfterStep (runState 0x0040#16 [(0x40, 0x14#8)] ⟨true, true, false, true⟩) = some 0x0041#16 := by
  decide

theorem test_jmp_if_not_parity_taken : pcAfterStep (runState 0x0040#16 [(0x40, 0x15#8)] ⟨true, true, false, true⟩) = some 0x1234#16 := by
  decide

theorem test_jmp_if_not_parity_not_taken : pcAfterStep (runState 0x0040#16 [(0x40, 0x15#8)] ⟨false, false, true, false⟩) = some 0x0041#16 := by
  decide

theorem test_call_save :
    (after (step (runState 0x12FF#16 [(0x12FF, 0x17#8)] noFlags))).map (fun t => (t.readReg 2#8, t.readReg 3#8, t.pc)) =
      some (0x00#8, 0x13#8, 0x1300#16) := by decide

/-- R = 4 in the opcode byte still writes r2 and r3. -/
theorem test_call_save_ignores_register :
    (after (step (runState 0x0008#16 [(0x0008, 0x97#8)] noFlags))).map (fun t => (t.readReg 2#8, t.readReg 4#8)) =
      some (0x09#8, 0x00#8) := by decide

/-! ## Immediate and data memory (95_test_vectors.md 2.5) -/

theorem test_load_immediate :
    (after (step (State.reset.withFetchWord 16 0x0516))).map (fun t => (t.readReg 0#8, t.pc)) =
      some (0x05#8, 0x0002#16) := by decide

theorem test_load_immediate_sf_keeps_flags :
    (after (step (runState 0x0010#16 [(0x10, 0x96#8)] allFlags))).map (fun t => (t.readReg 4#8, t.flags)) =
      some (0x00#8, allFlags) := by decide

theorem test_store_mem :
    (after (exec (.storeMem 6#8) (runState 0#16 [] noFlags))).map (fun t => (t.readData 0x1234#16, t.data)) =
      some (0x34#8, [(0x1234, 0x34#8)]) := by decide

/-- Storing 0x00 removes the cell: the canonical form. -/
theorem test_store_mem_zero :
    (after (exec (.storeMem 0#8) { runState 0#16 [] noFlags with data := [(0x1234, 0x55#8)] })).map State.data =
      some [] := by decide

/-- The address is formed from the old MAR. -/
theorem test_load_mem_marl :
    (after (exec (.loadMem 6#8) { runState 0#16 [] noFlags with data := [(0x1234, 0x55#8)] })).map marOperand =
      some 0x1255#16 := by decide

theorem test_load_mem_unwritten :
    (after (exec (.loadMem 3#8) (aluState 0x77#8 0x01#8 false))).map (fun t => t.readReg 3#8) = some 0x00#8 := by decide

/-! ## Halt and unused (95_test_vectors.md 2.6) -/

theorem test_halt :
    (after (step (State.reset.withFetchWord 8 0x1D))).map (fun t => (t.continueOut, t.pc, t.acc)) =
      some (false, 0x0001#16, 0x00#8) := by decide

theorem test_halt_ignores_register :
    (after (step (State.reset.withFetchWord 8 0xFD))).map State.continueOut = some false := by decide

/-- A step after a halt is an ordinary step (R161). -/
theorem test_step_after_halt :
    (after (step { runState 0x0001#16 [(0x0000, 0xFD#8), (0x0001, 0x09#8)] noFlags with continueOut := false })).map
      (fun t => (t.continueOut, t.flags.carry, t.pc)) = some (true, true, 0x0002#16) := by decide

theorem test_unused26 : after (step (runState 0x0010#16 [(0x10, 0x1A#8)] allFlags)) =
    some (runState 0x0011#16 [(0x10, 0x1A#8)] allFlags) := by decide

theorem test_unused27 : after (step (runState 0x0010#16 [(0x10, 0x1B#8)] allFlags)) =
    some (runState 0x0011#16 [(0x10, 0x1B#8)] allFlags) := by decide

theorem test_unused28 : after (step (runState 0x0010#16 [(0x10, 0xFC#8)] allFlags)) =
    some (runState 0x0011#16 [(0x10, 0xFC#8)] allFlags) := by decide

theorem test_unused30 : after (step (runState 0x0010#16 [(0x10, 0x1E#8)] allFlags)) =
    some (runState 0x0011#16 [(0x10, 0x1E#8)] allFlags) := by decide

theorem test_unused31 : after (step (runState 0x0010#16 [(0x10, 0xFF#8)] allFlags)) =
    some (runState 0x0011#16 [(0x10, 0xFF#8)] allFlags) := by decide

/-! ## Ports, construction and the pc overflow (95_test_vectors.md 2.7, 2.8) -/

theorem test_register_port_sp : (State.reset.regs.write 5#8 0x99#8).read 5#8 = 0x99#8 := by decide

theorem test_register_port_out_of_range :
    State.reset.regs.write 8#8 0x99#8 = State.reset.regs ∧ State.reset.regs.read 255#8 = 0x00#8 := by decide

theorem test_get_state :
    (getState 8 (aluState 0xFE#8 0x00#8 false), getState 9 (runState 0x1234#16 [] noFlags), getState 10 State.reset) =
      (0x00FE#16, 0x1234#16, 0x0000#16) := by decide

theorem test_construct_halt : (construct ⟨0x77#8, allFlags⟩ [0x1D#8]).prog = [(0, 0x1D#8)] := by decide

/-- The two rows of 2.8, for both values of the parameter: the increment at 0xFFFF. -/
theorem test_pc_inc_wrap : (after (pcInc .wrap (runState 0xFFFF#16 [] noFlags))).map State.pc = some 0x0000#16 := by decide

theorem test_pc_inc_fault : (after (pcInc .fault (runState 0xFFFF#16 [] noFlags))).isNone = true := by decide

/-- The reset state runs: a run of a halt ends halted at address 1 (P1's last instruction, alone). -/
theorem test_run_to_end :
    runToEnd 3 (construct ⟨0x77#8, allFlags⟩ [0x1D#8]) =
      .halted { construct ⟨0x77#8, allFlags⟩ [0x1D#8] with pc := 0x0001#16, continueOut := false } := by decide

/-! ## Witnesses: the hypotheses of each statement met together -/

theorem witness_DecodeEncodeRoundTrip :
    WellFormed (.loadImmediate 7#8 0xFF#8) ∧ WellFormed (.add 0#8) ∧ WellFormed .halt :=
  by decide

theorem witness_IgnoredRegisterFieldDecodesAlike :
    4 ∈ ignoringCodes ∧ 31 ∈ ignoringCodes ∧ 0 < 8 ∧ 7 < 8 :=
  by decide

theorem witness_DecoderConsumesOneOrTwoBytes :
    (0xF6#8 : Byte).toNat % 32 = 22 ∧ (0xF7#8 : Byte).toNat % 32 ≠ 22 :=
  by decide

theorem witness_StepRunsTheFetchedInstruction :
    decodeOp (State.reset.readProg State.reset.pc) (State.reset.readProg (State.reset.pc + 1#16)) = .add 0#8 ∧
    WellFormed (.add 0#8) ∧ State.reset.pc ≠ 0xFFFF#16 ∧ (∃ t, step State.reset = .next t) ∧
    decodeOp ((runState 0xFFFF#16 [] noFlags).readProg 0xFFFF#16) ((runState 0xFFFF#16 [] noFlags).readProg (0xFFFF#16 + 1#16)) =
      .add 0#8 ∧ (runState 0xFFFF#16 [] noFlags).pc = 0xFFFF#16 :=
  ⟨by decide, by decide, by decide, next_of_after (by decide), by decide, rfl⟩

theorem witness_PcIncrementFollowsTheParameter :
    (runState 0xFFFE#16 [] noFlags).pc.toNat < 65535 ∧ (runState 0xFFFF#16 [] noFlags).pc.toNat = 65535 :=
  by decide

theorem witness_RegisterFilePortIsTotal :
    (7#8 : RegIndex).toNat < 8 ∧ (8#8 : RegIndex) ≠ 7#8 ∧ 8 ≤ (8#8 : RegIndex).toNat ∧ 8 ≤ (255#8 : RegIndex).toNat ∧
    (decodeOp 0xE0#8 0x00#8).regOperand? = some 7#8 :=
  by decide

theorem witness_InstructionsWriteOnlyTheirRegisters :
    (∃ t, exec .callSave State.reset = .next t) ∧ 1#8 ∉ writtenRegisters .callSave ∧ 4#8 ∉ writtenRegisters .callSave :=
  ⟨next_of_after (by decide), by decide, by decide⟩

theorem witness_StoresReadBackWhatWasWritten :
    (0x0000#16 : Addr) ≠ 0xFFFF#16 :=
  by decide

theorem witness_CanonicalStoresWithEqualBytesAreEqual :
    Memory.wf [(0, 0x01#8), (65535, 0xFF#8)] = true ∧ Memory.wf [(65536, 0x01#8)] = false ∧ Memory.wf [(0, 0x00#8)] = false :=
  by decide

theorem witness_NonStoringInstructionsKeepEveryByte :
    (∃ t, exec (.loadMem 3#8) State.reset = .next t) ∧ (∀ r, Instr.loadMem 3#8 ≠ .storeMem r) ∧
    ∃ t, exec (.storeMem 3#8) State.reset = .next t :=
  ⟨next_of_after (by decide), fun _ h => (by cases h), next_of_after (by decide)⟩

theorem witness_StepKeepsStoresCanonical :
    (runState 0#16 [(0, 0xD8#8)] noFlags).Inv ∧ ∃ t, step (runState 0#16 [(0, 0xD8#8)] noFlags) = .next t :=
  ⟨⟨by decide, by decide⟩, next_of_after (by decide)⟩

theorem witness_ProgramStoreIsTheImageForTheWholeRun :
    (∃ t, stepMany 2 State.reset = .next t) ∧ ∃ t, stepMany 1 (construct ⟨0x77#8, allFlags⟩ [0xD8#8]) = .next t :=
  ⟨next_of_after (by decide), next_of_after (by decide)⟩

theorem witness_AluFlagsFollowTheResult :
    (Instr.add 0#8).code.toNat ≤ 8 ∧ (Instr.cmp 7#8).code.toNat ≤ 8 ∧ (Instr.reserved7).code.toNat ≠ 8 :=
  by decide

theorem witness_SbcAfterASubtractionTakesOneMore :
    (∃ t, exec (.sub 1#8) State.reset = .next t) ∧ (∃ t, exec (.sbc 1#8) State.reset = .next t) ∧
    ∃ t, exec (.cmp 1#8) State.reset = .next t :=
  ⟨next_of_after (by decide), next_of_after (by decide), next_of_after (by decide)⟩

theorem witness_StoreAccWritesTheSelectedRegister :
    ∃ r q : RegIndex, r = 6#8 ∧ q = 7#8 :=
  ⟨_, _, rfl, rfl⟩

theorem witness_ExactlyOneJumpOfAPairIsTaken :
    marNumber (runState 0x0041#16 [] noFlags) ≠ (runState 0x0041#16 [] noFlags).pc :=
  by decide

theorem witness_JumpsWriteOnlyThePc :
    13 ≤ Instr.jmp.code.toNat ∧ Instr.jmp.code.toNat ≤ 21 ∧ 13 ≤ Instr.jmpIfNotParity.code.toNat ∧
    Instr.jmpIfNotParity.code.toNat ≤ 21 :=
  by decide

theorem witness_CallSaveWritesThePcToTwoRegisters :
    codeAtPc (runState 0xFFFE#16 [(0xFFFE, 0xF7#8)] noFlags) = 23 ∧
    (runState 0xFFFE#16 [(0xFFFE, 0xF7#8)] noFlags).pc.toNat < 65535 ∧ (4#8 : RegIndex) ≠ 2#8 ∧ (4#8 : RegIndex) ≠ 3#8 :=
  by decide

theorem witness_LoadImmediateWritesTheOperand :
    (runState 0xFFFE#16 [] noFlags).pc ≠ 0xFFFF#16 ∧ (runState 0xFFFF#16 [] noFlags).pc = 0xFFFF#16 :=
  by decide

theorem witness_LoadImmediateStepConsumesTheOperandByte :
    7 < 8 ∧
    (runState 0xFFFD#16 [(0xFFFD, 0xF6#8)] noFlags).readProg 0xFFFD#16 = BitVec.ofNat 8 (7 * 32 + 22) ∧
    (runState 0xFFFD#16 [(0xFFFD, 0xF6#8)] noFlags).pc.toNat < 65534 ∧
    (runState 0xFFFE#16 [(0xFFFE, 0xF6#8)] noFlags).readProg 0xFFFE#16 = BitVec.ofNat 8 (7 * 32 + 22) ∧
    65534 ≤ (runState 0xFFFE#16 [(0xFFFE, 0xF6#8)] noFlags).pc.toNat ∧
    (runState 0xFFFF#16 [(0xFFFF, 0x16#8)] noFlags).readProg 0xFFFF#16 = BitVec.ofNat 8 (0 * 32 + 22) ∧
    65534 ≤ (runState 0xFFFF#16 [(0xFFFF, 0x16#8)] noFlags).pc.toNat :=
  by decide

theorem witness_StoreMemWritesTheByteAtTheMar :
    (0xFFFF#16 : Addr) ≠ marNumber State.reset :=
  by decide

theorem witness_LoadMemReturnsTheLastStore :
    (∃ t, exec (.storeMem 6#8) (runState 0#16 [] noFlags) = .next t) ∧ (7#8 : RegIndex).toNat < 8 :=
  ⟨next_of_after (by decide), by decide⟩

theorem witness_MarWritesReachTheNextUser :
    (∃ t, exec (.storeAcc (if false then 7#8 else 6#8)) State.reset = .next t) ∧
    (∃ t, exec (.storeAcc (if true then 7#8 else 6#8)) State.reset = .next t) ∧ (7#8 : RegIndex).toNat < 8 :=
  ⟨next_of_after (by decide), next_of_after (by decide), by decide⟩

theorem witness_HaltReportsAndChangesNothing :
    codeAtPc (runState 0xFFFE#16 [(0xFFFE, 0xFD#8)] noFlags) = 29 ∧
    (runState 0xFFFE#16 [(0xFFFE, 0xFD#8)] noFlags).pc.toNat < 65535 :=
  by decide

theorem witness_UnusedCodesDoNothing :
    codeAtPc (runState 0xFFFE#16 [(0xFFFE, 0xFF#8)] noFlags) ∈ [26, 27, 28, 30, 31] ∧
    codeAtPc (runState 0#16 [(0, 0x1A#8)] noFlags) ∈ [26, 27, 28, 30, 31] ∧
    (runState 0xFFFE#16 [(0xFFFE, 0xFF#8)] noFlags).pc.toNat < 65535 :=
  by decide

theorem witness_OnlyHaltReportsFalse :
    (∃ t, step (runState 0#16 [(0, 0x1D#8)] noFlags) = .next t) ∧ ∃ t, step State.reset = .next t :=
  ⟨next_of_after (by decide), next_of_after (by decide)⟩

theorem witness_OnlyPcOverflowStopsAStep :
    (runState 0xFFFD#16 [(0xFFFD, 0x16#8)] noFlags).pc.toNat < 65534 :=
  by decide

theorem witness_PcAfterEveryStep :
    (∃ t, step (runState 0x0040#16 [(0x40, 0x0E#8)] allFlags) = .next t) ∧ ∃ t, step (runState 0xFFFD#16 [(0xFFFD, 0x16#8)] noFlags) = .next t :=
  ⟨next_of_after (by decide), next_of_after (by decide)⟩

theorem witness_FlagsChangeOnlyWhereTheTableSays :
    (∃ t, exec (.nor 1#8) State.reset = .next t) ∧ (Instr.nor 1#8).code.toNat ∉ [0, 1, 2, 3, 4, 8, 9, 10] ∧
    (∃ t, exec .setCarry State.reset = .next t) ∧ Instr.setCarry.code.toNat ∈ [1, 3, 8, 9] ∧ 8 < Instr.setCarry.code.toNat ∧
    (∃ t, exec .clearCarry State.reset = .next t) ∧ Instr.clearCarry.code.toNat = 10 :=
  ⟨next_of_after (by decide), by decide, next_of_after (by decide), by decide, by decide, next_of_after (by decide), by decide⟩

theorem witness_AccumulatorChangesOnlyByCodesZeroToSevenAndEleven :
    (∃ t, exec (.cmp 7#8) State.reset = .next t) ∧ 8 ≤ (Instr.cmp 7#8).code.toNat ∧ (Instr.cmp 7#8).code.toNat ≠ 11 :=
  ⟨next_of_after (by decide), by decide, by decide⟩

theorem witness_GetStateWidensByIndex :
    0 ≤ 7 ∧ 7 ≤ 7 ∧ 10 ≤ 10 :=
  by decide

theorem witness_RunEndsAtTheFirstHalt :
    (∃ t, runToEnd 1 (runState 0#16 [(0, 0x1D#8)] noFlags) = .halted t) ∧
    (∃ t, runToEnd 2 (runState 0#16 [(0, 0x09#8), (1, 0x1D#8)] noFlags) = .halted t) ∧
    ∃ u, stepMany 1 (runState 0#16 [(0, 0x09#8), (1, 0x1D#8)] noFlags) = .next u ∧ codeAtPc u = 29 ∧
      codeAtPc (runState 0#16 [(0, 0x09#8), (1, 0x1D#8)] noFlags) ≠ 29 :=
  ⟨⟨_, rfl⟩, ⟨_, rfl⟩, _, rfl, by decide, by decide⟩

theorem witness_RunningOffTheImageAddsRegisterZero :
    stepMany 0 (construct ⟨0x77#8, allFlags⟩ []) = .next (construct ⟨0x77#8, allFlags⟩ []) ∧
    ([] : List Byte).length ≤ (construct ⟨0x77#8, allFlags⟩ []).pc.toNat ∧ (construct ⟨0x77#8, allFlags⟩ []).pc.toNat < 65535 ∧
    (∃ t, stepMany 1 (construct ⟨0x77#8, allFlags⟩ [0x09#8]) = .next t ∧ [0x09#8].length ≤ t.pc.toNat ∧ t.pc.toNat < 65535) :=
  ⟨rfl, by decide, by decide, ⟨_, rfl, by decide, by decide⟩⟩

theorem witness_SetMarLoadsTheMarOnly :
    (runState 0xFFFB#16 [(0xFFFB, 0xD6#8), (0xFFFC, 0x34#8), (0xFFFD, 0xF6#8), (0xFFFE, 0x12#8)] noFlags).pc.toNat ≤ 65531 ∧
    ∀ n, n < 4 →
      (runState 0xFFFB#16 [(0xFFFB, 0xD6#8), (0xFFFC, 0x34#8), (0xFFFD, 0xF6#8), (0xFFFE, 0x12#8)] noFlags).readProg
        (0xFFFB#16 + BitVec.ofNat 16 n) = ((setMar 0x1234#16).flatMap encode).getD n 0#8 :=
  by decide

theorem witness_QueriesChangeNothing :
    ∃ reply t, hostAct ⟨0x77#8, allFlags⟩ (.getState 9) State.reset = .replied reply t :=
  ⟨_, _, rfl⟩

end Sys2Proof.Tests
end

/-! # What the execute phase and a step leave in each field of the state -/

namespace Sys2Proof.Proofs

open Sys2Proof.Machine

/-! ## The next state of the execute phase, field by field

`exec` is one function of 32 arms; what it leaves is said here once, one function per field of the state, and tied to
`exec` by `exec_cases`. A statement about one field is then a case split over the few instructions that write it. -/

/-- The `(result, carry)` pair of an ALU instruction, codes 0 to 8 (R100). -/
def aluOut? (i : Instr) (s : State) : Option AluOut :=
  match i with
  | .add r => some (addOp s.acc (s.readReg r))
  | .sub r => some (subOp s.acc (s.readReg r))
  | .adc r => some (adcOp s.acc (s.readReg r) s.flags.carry)
  | .sbc r => some (sbcOp s.acc (s.readReg r) s.flags.carry)
  | .ror => some (rorOp Config.rorMsbWhenCarry s.acc s.flags.carry)
  | .nor r => some (norOp s.acc (s.readReg r) s.flags.carry)
  | .and r => some (andOp s.acc (s.readReg r) s.flags.carry)
  | .reserved7 => some (reserved7Op s.flags.carry)
  | .cmp r => some (cmpOp s.acc (s.readReg r))
  | _ => none

/-- The accumulator after the execute phase (R25): `cmp` computes a result and drops it. -/
def accAfterExec (i : Instr) (s : State) : Byte :=
  match i with
  | .cmp _ => s.acc
  | .loadAcc r => s.readReg r
  | _ => ((aluOut? i s).map AluOut.result).getD s.acc

/-- The flags after the execute phase (R32). -/
def flagsAfterExec (i : Instr) (s : State) : Flags :=
  match i with
  | .setCarry => setCarryFlag true s.flags
  | .clearCarry => setCarryFlag false s.flags
  | _ => ((aluOut? i s).map fun o => aluFlags o s.flags).getD s.flags

/-- The register file after the execute phase (R22). -/
def regsAfterExec (i : Instr) (s : State) : RegFile :=
  match i with
  | .storeAcc r => s.regs.write r s.acc
  | .loadImmediate r imm => s.regs.write r imm
  | .loadMem r => s.regs.write r (s.readData (marOperand s))
  | .callSave => (s.regs.write 2#8 (s.pc.extractLsb' 0 8)).write 3#8 (s.pc.extractLsb' 8 8)
  | _ => s.regs

/-- Whether the instruction goes to the MAR with these flags (R130 to R139). -/
def jumpTaken (i : Instr) (f : Flags) : Bool :=
  match i with
  | .jmp => true
  | .jmpIfCarry => f.carry
  | .jmpIfNotCarry => !f.carry
  | .jmpIfZero => f.zero
  | .jmpIfNotZero => !f.zero
  | .jmpIfSign => f.sign
  | .jmpIfNotSign => !f.sign
  | .jmpIfParity => f.parity
  | .jmpIfNotParity => !f.parity
  | _ => false

/-- The pc after the execute phase, whose start is the address after the opcode byte (R28, R29). -/
def pcAfterExec (i : Instr) (s : State) : Addr :=
  match i with
  | .loadImmediate _ _ => s.pc + 1#16
  | _ => if jumpTaken i s.flags then marOperand s else s.pc

/-- The data store after the execute phase (R151). -/
def dataAfterExec (i : Instr) (s : State) : Memory :=
  match i with
  | .storeMem r => Memory.write s.data (marOperand s) (s.readReg r)
  | _ => s.data

/-- The state after an execute phase that answers one. The program store is never written (R59). -/
def afterExec (i : Instr) (s : State) : State where
  acc := accAfterExec i s
  regs := regsAfterExec i s
  pc := pcAfterExec i s
  flags := flagsAfterExec i s
  prog := s.prog
  data := dataAfterExec i s
  continueOut := !decide (i = .halt)

@[simp] theorem afterExec_acc (i : Instr) (s : State) : (afterExec i s).acc = accAfterExec i s := rfl

@[simp] theorem afterExec_regs (i : Instr) (s : State) : (afterExec i s).regs = regsAfterExec i s := rfl

@[simp] theorem afterExec_pc (i : Instr) (s : State) : (afterExec i s).pc = pcAfterExec i s := rfl

@[simp] theorem afterExec_flags (i : Instr) (s : State) : (afterExec i s).flags = flagsAfterExec i s := rfl

@[simp] theorem afterExec_prog (i : Instr) (s : State) : (afterExec i s).prog = s.prog := rfl

@[simp] theorem afterExec_data (i : Instr) (s : State) : (afterExec i s).data = dataAfterExec i s := rfl

@[simp] theorem afterExec_continueOut (i : Instr) (s : State) :
    (afterExec i s).continueOut = !decide (i = .halt) := rfl

@[simp] theorem readReg_afterExec (i : Instr) (s : State) (j : RegIndex) :
    (afterExec i s).readReg j = (regsAfterExec i s).read j := rfl

/-! ## What `exec` and `step` can answer -/

/-- Everything the execute phase of code 22 can do: its own increment is the only thing that can fail (R150, R172). -/
theorem exec_loadImmediate_cases (r : RegIndex) (imm : Byte) (s : State) :
    exec (.loadImmediate r imm) s = .next (afterExec (.loadImmediate r imm) s) ∨
      (s.pc = 0xFFFF#16 ∧ Config.pcOverflow = .fault ∧ exec (.loadImmediate r imm) s = .fault .pcOverflow) := by
  have hexec : exec (.loadImmediate r imm) s =
      andThen (pcInc Config.pcOverflow s) fun t => continueWith true (writeRegisterOperand r imm t) := rfl
  rcases pcInc_cases Config.pcOverflow s with hinc | ⟨hpc, hmode, hinc⟩
  · exact .inl (by rw [hexec, hinc]; rfl)
  · exact .inr ⟨hpc, hmode, by rw [hexec, hinc]; rfl⟩

/-- Everything the execute phase can do: it leaves `afterExec`, or it is code 22 at 0xFFFF with `Fault`. -/
theorem exec_cases (i : Instr) (s : State) :
    exec i s = .next (afterExec i s) ∨
      (i.code = 22#5 ∧ s.pc = 0xFFFF#16 ∧ Config.pcOverflow = .fault ∧ exec i s = .fault .pcOverflow) := by
  cases i with
  | loadImmediate r imm => exact (exec_loadImmediate_cases r imm s).imp_right fun h => ⟨rfl, h⟩
  | jmp | jmpIfCarry | jmpIfNotCarry | jmpIfZero | jmpIfNotZero | jmpIfSign | jmpIfNotSign | jmpIfParity
  | jmpIfNotParity => exact .inl (jumpWhen_eq _ s)
  | _ => exact .inl rfl

/-- An execute phase that answers a next state leaves `afterExec`. -/
theorem exec_eq_next {i : Instr} {s t : State} (h : exec i s = .next t) : t = afterExec i s := by
  rcases exec_cases i s with e | ⟨_, _, _, e⟩
  · rw [e] at h
    cases h
    rfl
  · rw [e] at h
    cases h

/-- Every instruction but code 22 answers a next state. -/
theorem exec_of_code_ne {i : Instr} (h : i.code ≠ 22#5) (s : State) : exec i s = .next (afterExec i s) :=
  (exec_cases i s).resolve_right fun ⟨hcode, _⟩ => h hcode

/-- A step that answers a next state ran the fetched instruction from the address after its opcode byte (R71). -/
theorem step_eq_next {s t : State} (h : step s = .next t) :
    t = afterExec (fetchInstr s) (s.setPc (s.pc + 1#16)) := by
  obtain ⟨u, hinc, hexec⟩ := andThen_eq_next h
  rw [exec_eq_next hexec, pcInc_eq_next hinc]

/-! ## What each field keeps -/

/-- The data store keeps its canonical form: the one writer, store-mem, uses the store's own write. -/
theorem dataAfterExec_wf (i : Instr) {s : State} (h : Memory.wf s.data = true) :
    Memory.wf (dataAfterExec i s) = true := by
  cases i with
  | storeMem r => exact Memory.wf_write h _ _
  | _ => exact h

/-- A register that the instruction does not write by R22 reads as before. -/
theorem read_regsAfterExec_of_notMem {i : Instr} {j : RegIndex} (s : State) (h : j ∉ Claims.writtenRegisters i) :
    (regsAfterExec i s).read j = s.readReg j := by
  cases i with
  | storeAcc r | loadImmediate r imm | loadMem r =>
    exact RegFile.read_write_other _ _ (List.ne_of_not_mem_cons h)
  | callSave =>
    have h3 : j ≠ 3#8 := List.ne_of_not_mem_cons (List.not_mem_of_not_mem_cons h)
    exact (RegFile.read_write_other _ _ h3).trans (RegFile.read_write_other _ _ (List.ne_of_not_mem_cons h))
  | _ => rfl

/-- Codes 8 and above keep the accumulator, load-acc apart. -/
theorem accAfterExec_kept {i : Instr} (s : State) (h : 8 ≤ i.code.toNat) (h11 : i.code.toNat ≠ 11) :
    accAfterExec i s = s.acc := by
  cases i with
  | add | sub | adc | sbc | ror | nor | and | reserved7 => simp [Instr.code] at h
  | loadAcc r => exact absurd rfl h11
  | _ => rfl

theorem flagsAfterExec_carry_kept {i : Instr} (s : State) (h : i.code.toNat ∉ [0, 1, 2, 3, 4, 8, 9, 10]) :
    (flagsAfterExec i s).carry = s.flags.carry := by
  cases i with
  | add | sub | adc | sbc | ror | cmp | setCarry | clearCarry => simp [Instr.code] at h
  | _ => rfl

theorem flagsAfterExec_carry_set {i : Instr} (s : State) (h : i.code.toNat ∈ [1, 3, 8, 9]) :
    (flagsAfterExec i s).carry = true := by
  cases i with
  | sub | sbc | cmp | setCarry => rfl
  | _ => simp [Instr.code] at h

theorem flagsAfterExec_carry_cleared {i : Instr} (s : State) (h : i.code.toNat = 10) :
    (flagsAfterExec i s).carry = false := by
  cases i with
  | clearCarry => rfl
  | _ => simp [Instr.code] at h

/-- Above code 8 the flags change in the carry at most. -/
theorem flagsAfterExec_zsp_kept {i : Instr} (s : State) (h : 8 < i.code.toNat) :
    flagsAfterExec i s = setCarryFlag (flagsAfterExec i s).carry s.flags := by
  cases i with
  | add | sub | adc | sbc | ror | nor | and | reserved7 | cmp => simp [Instr.code] at h
  | _ => rfl

/-! ## The ALU instructions -/

/-- Codes 0 to 8 are ALU instructions. -/
theorem exists_aluOut_of_code_le {i : Instr} (s : State) (h : i.code.toNat ≤ 8) : ∃ o, aluOut? i s = some o := by
  cases i with
  | add | sub | adc | sbc | ror | nor | and | reserved7 | cmp => exact ⟨_, rfl⟩
  | _ => simp [Instr.code] at h

theorem flagsAfterExec_of_aluOut {i : Instr} {s : State} {o : AluOut} (h : aluOut? i s = some o) :
    flagsAfterExec i s = aluFlags o s.flags := by
  cases i with
  | setCarry | clearCarry => cases h
  | _ => simp [flagsAfterExec, h]

theorem accAfterExec_of_aluOut {i : Instr} {s : State} {o : AluOut} (h : aluOut? i s = some o)
    (h8 : i.code.toNat ≠ 8) : accAfterExec i s = o.result := by
  cases i with
  | cmp r => exact absurd rfl h8
  | loadAcc r => cases h
  | _ => simp [accAfterExec, h]

/-- The difference that `cmp` computes, in the numbers of the claims (R109, R110). -/
theorem cmpOp_result_toNat (a b : Byte) : (cmpOp a b).result.toNat = Claims.difference a.toNat b.toNat 0 := by
  have hres := cmpOp_result a b
  have hb := b.isLt
  unfold Claims.difference
  omega

theorem aluFlags_sign (o : AluOut) (f : Flags) : (aluFlags o f).sign = decide (128 ≤ o.result.toNat) :=
  BitVec.msb_eq_decide o.result

theorem aluFlags_parity (o : AluOut) (f : Flags) : (aluFlags o f).parity = decide (o.result.toNat % 2 = 1) :=
  Nat.testBit_zero o.result.toNat

theorem aluFlags_zero (o : AluOut) (f : Flags) : (aluFlags o f).zero = decide (o.result.toNat = 0) :=
  decide_eq_decide.2 (BitVec.toNat_eq (y := 0#8))

/-! ## The fetched instruction and the MAR -/

/-- The code of the fetched instruction is the low five bits of the byte at the pc (R70, R71). -/
theorem fetchInstr_code (s : State) : (fetchInstr s).code.toNat = Claims.codeAtPc s := by
  have hcode : (fetchInstr s).code = opcodeField (s.readProg s.pc) := Laws.instrOf_code _ _ _
  rw [hcode]
  simp [opcodeField, Claims.codeAtPc]

/-- Code 29 is halt's alone (R75). -/
theorem code_eq_halt_iff (i : Instr) : i.code.toNat = 29 ↔ i = .halt := by
  refine ⟨fun h => ?_, fun h => h ▸ rfl⟩
  cases i with
  | halt => rfl
  | _ => simp [Instr.code] at h

/-- The claims' MAR number is the model's MAR operand: the high byte times 256 plus the low byte (R30). -/
theorem marNumber_eq_marOperand (s : State) : Claims.marNumber s = marOperand s := by
  apply BitVec.eq_of_toNat_eq
  have hlo := (s.readReg 6#8).isLt
  have hhi := (s.readReg 7#8).isLt
  simp only [Claims.marNumber, marOperand, BitVec.toNat_append, BitVec.toNat_ofNat]
  rw [← Nat.shiftLeft_add_eq_or_of_lt hlo, Nat.shiftLeft_eq]
  omega

/-- A test of a clear flag is the test of the set flag with its branches exchanged. -/
theorem ite_bnot {α : Type} (c : Bool) (x y : α) : (if !c then x else y) = if c then y else x := by
  cases c <;> rfl

/-- The pc after the step's two phases is the one of the spec's table (R29). -/
theorem pcAfterExec_fetchInstr (s : State) :
    pcAfterExec (fetchInstr s) (s.setPc (s.pc + 1#16)) = Claims.pcAfter s := by
  unfold Claims.pcAfter
  rw [marNumber_eq_marOperand]
  generalize fetchInstr s = i
  cases i with
  | loadImmediate r imm => exact BitVec.add_assoc s.pc 1#16 1#16
  | jmpIfNotCarry | jmpIfNotZero | jmpIfNotSign | jmpIfNotParity => exact ite_bnot _ _ _
  | _ => rfl

/-! ## The registers at construction (R46) and the introspection port (R42) -/

/-- Every index of a cleared register file reads as 0, those that name no slot too. -/
theorem read_zeroRegs (j : RegIndex) :
    (RegFile.mk 0#8 0#8 0#8 0#8 0#8 0#8 0#8 0#8).read j = 0#8 := by
  unfold RegFile.read
  split <;> rfl

theorem getState_of_lt {i : Nat} (s : State) (h : i < 8) :
    getState i s = (s.readReg (BitVec.ofNat 8 i)).setWidth 16 := by
  unfold getState
  split <;> first | omega | exact if_pos h

theorem getState_of_ge {i : Nat} (s : State) (h : 10 ≤ i) : getState i s = 0#16 := by
  unfold getState
  split <;> first | omega | exact if_neg (by omega)

theorem toNat_widened (v : Byte) : (v.setWidth 16).toNat = v.toNat := by
  simp; omega

/-! ## The obligations of the family 10_state.md -/

/-- Settles O15: of the two stores a step can write the data store alone, and only by the store's own write. -/
theorem stepKeepsStoresCanonical : Obligations.StepKeepsStoresCanonical := by
  rintro s t ⟨hprog, hdata⟩ h
  rw [step_eq_next h]
  exact ⟨hprog, dataAfterExec_wf _ hdata⟩

/-- Settles O9: the port's laws, and that an operand of a decoded instruction is its 3-bit R field. -/
theorem registerFilePortIsTotal : Obligations.RegisterFilePortIsTotal := by
  refine ⟨fun rf i v => ⟨RegFile.read_write_same rf v, fun j => RegFile.read_write_other rf v,
    fun h => ⟨RegFile.read_of_ge rf h, RegFile.write_of_ge rf v h⟩⟩, fun op x r h => ?_⟩
  have hr : (decodeOp op x).regOperand? = some (registerField op) :=
    (Laws.instrOf_regOperand _ _ _).resolve_left fun e => Option.some_ne_none r (h.symm.trans e)
  obtain rfl : registerField op = r := Option.some.inj (hr.symm.trans h)
  exact Laws.registerField_lt op

/-- Settles O10 by the register file that the execute phase leaves. -/
theorem instructionsWriteOnlyTheirRegisters : Obligations.InstructionsWriteOnlyTheirRegisters := by
  intro i s t h j hj
  rw [exec_eq_next h]
  exact read_regsAfterExec_of_notMem s hj

/-- Settles O27: the result byte is the one of the instruction's ALU operation. -/
theorem aluFlagsFollowTheResult : Obligations.AluFlagsFollowTheResult := by
  intro i s hi
  obtain ⟨o, ho⟩ := exists_aluOut_of_code_le s hi
  have hne : i.code ≠ 22#5 := fun e => by simp [e] at hi
  have hflags : (afterExec i s).flags = aluFlags o s.flags := flagsAfterExec_of_aluOut ho
  refine ⟨afterExec i s, o.result, exec_of_code_ne hne s, ?_, ?_, ?_, ?_, ?_⟩
  · rw [hflags, aluFlags_sign]
  · rw [hflags, aluFlags_parity]
  · rw [hflags, aluFlags_zero]
  · exact fun h8 => (accAfterExec_of_aluOut ho h8).symm
  · rintro r rfl
    cases ho
    exact cmpOp_result_toNat _ _

/-- Settles O49: the port tells whether the fetched instruction is halt, and halt alone has code 29. -/
theorem onlyHaltReportsFalse : Obligations.OnlyHaltReportsFalse := by
  intro s t h
  rw [step_eq_next h, ← fetchInstr_code, code_eq_halt_iff]
  simp

/-- Settles O52 by the pc that the step's two phases leave. -/
theorem pcAfterEveryStep : Obligations.PcAfterEveryStep := by
  intro s t h
  rw [step_eq_next h]
  exact pcAfterExec_fetchInstr s

/-- Settles O53 by the flags that the execute phase leaves. -/
theorem flagsChangeOnlyWhereTheTableSays : Obligations.FlagsChangeOnlyWhereTheTableSays := by
  intro i s t h
  rw [exec_eq_next h]
  refine ⟨flagsAfterExec_carry_kept s, flagsAfterExec_carry_set s, flagsAfterExec_carry_cleared s, fun h8 => ?_⟩
  rw [afterExec_flags, flagsAfterExec_zsp_kept s h8]
  exact ⟨rfl, rfl, rfl⟩

/-- Settles O54 by the accumulator that the execute phase leaves. -/
theorem accumulatorChangesOnlyByCodesZeroToSevenAndEleven :
    Obligations.AccumulatorChangesOnlyByCodesZeroToSevenAndEleven := by
  intro i s t h h8 h11
  rw [exec_eq_next h]
  exact accAfterExec_kept s h8 h11

/-- Settles O56, one range of the index at a time. -/
theorem getStateWidensByIndex : Obligations.GetStateWidensByIndex := by
  intro s i
  refine ⟨fun h => ?_, ?_, ?_, getState_of_ge s⟩
  · rw [getState_of_lt s (by omega), toNat_widened]
  · rintro rfl
    exact toNat_widened s.acc
  · rintro rfl
    rfl

/-- Settles O8: below 0xFFFF the parameter is not read; at 0xFFFF each of its values is one case. -/
theorem pcIncrementFollowsTheParameter : Obligations.PcIncrementFollowsTheParameter := by
  intro mode s
  refine ⟨fun h => ?_, fun h => ?_⟩
  · have hne : s.pc ≠ 0xFFFF#16 := fun e => by simp [e] at h
    have hadd : s.pc + 1#16 = BitVec.ofNat 16 (s.pc.toNat + 1) := by
      rw [BitVec.ofNat_add, BitVec.ofNat_toNat, BitVec.setWidth_eq]
    rw [pcInc_of_ne hne, hadd]
    rfl
  · have hpc : s.pc = 0xFFFF#16 := BitVec.eq_of_toNat_eq h
    cases mode with
    | wrap => exact pcInc_wrap hpc
    | fault => exact pcInc_fault hpc

/-- Settles O16: a constructed data store is empty, and a loaded image has the canonical form. -/
theorem resetAndConstructedStoresAreCanonical : Obligations.ResetAndConstructedStoresAreCanonical :=
  ⟨State.reset_stores_wf, fun _ image => ⟨Memory.wf_ofImage image, Memory.wf_nil⟩⟩

/-- Settles O55: the registers by `read_zeroRegs`, every other value is the one the construction writes. -/
theorem constructionValues : Obligations.ConstructionValues :=
  ⟨fun _ _ => ⟨read_zeroRegs, fun _ => rfl, rfl, rfl, rfl⟩, rfl⟩

/-- Settles O60: a query's reply carries the state it was asked of, so the step after it is that state's step. -/
theorem queriesChangeNothing : Obligations.QueriesChangeNothing := by
  intro init s i
  refine ⟨⟨_, rfl⟩, ⟨_, rfl, rfl, fun _ => rfl, rfl, rfl⟩, fun q reply t hq h => ?_⟩
  obtain rfl : s = t := by
    rcases hq with rfl | rfl <;> cases h <;> rfl
  rfl

end Sys2Proof.Proofs

/-! # What the stores hold, after a write and along a run -/

namespace Sys2Proof.Proofs

open Sys2Proof.Machine

/-! ## Reading a store in canonical form

The cells rise, so nothing below the bound `lo` of `Memory.wfFrom lo` is listed, and the number of the first cell is the
least one that does not read as unlisted. -/

@[simp] theorem lookup_cons_same (m : Memory) (a : Nat) (v : Byte) : Memory.lookup ((a, v) :: m) a = v :=
  if_pos rfl

theorem lookup_cons_of_ne (m : Memory) {a b : Nat} (v : Byte) (h : b ≠ a) :
    Memory.lookup ((a, v) :: m) b = Memory.lookup m b :=
  if_neg h.symm

theorem lookup_of_lt {lo a : Nat} {m : Memory} (hm : Memory.wfFrom lo m = true) (ha : a < lo) :
    Memory.lookup m a = Memory.unlisted := by
  induction m generalizing lo with
  | nil => rfl
  | cons c rest ih =>
    obtain ⟨b, v⟩ := c
    obtain ⟨hb, -, -, hrest⟩ := Memory.wfFrom_cons.1 hm
    rw [lookup_cons_of_ne rest v (by omega)]
    exact ih hrest (by omega)

/-- The first cell is the lowest that does not read as unlisted. -/
theorem first_le_of_lookup_ne {lo a b : Nat} {v : Byte} {m : Memory} (hm : Memory.wfFrom lo ((a, v) :: m) = true)
    (hb : Memory.lookup ((a, v) :: m) b ≠ Memory.unlisted) : a ≤ b := by
  obtain ⟨-, hsize, hv, hrest⟩ := Memory.wfFrom_cons.1 hm
  have hfirst : Memory.wfFrom a ((a, v) :: m) = true := Memory.wfFrom_cons.2 ⟨le_refl a, hsize, hv, hrest⟩
  exact Nat.le_of_not_lt fun hlt => hb (lookup_of_lt hfirst hlt)

/-- Two canonical lists of cells that read alike are equal: their first cells are both the lowest that does not read as
unlisted, so they agree, and without them the lists still read alike. -/
theorem eq_of_lookup_eq {lo : Nat} {m n : Memory} (hm : Memory.wfFrom lo m = true) (hn : Memory.wfFrom lo n = true)
    (h : ∀ a, a < Memory.size → Memory.lookup m a = Memory.lookup n a) : m = n := by
  induction m generalizing lo n with
  | nil =>
    cases n with
    | nil => rfl
    | cons c n =>
      obtain ⟨-, hc, hw, -⟩ := Memory.wfFrom_cons.1 hn
      exact absurd ((lookup_cons_same n c.1 c.2).symm.trans (h c.1 hc).symm) hw
  | cons b m ih =>
    obtain ⟨b, v⟩ := b
    obtain ⟨-, hb, hv, hm'⟩ := Memory.wfFrom_cons.1 hm
    cases n with
    | nil => exact absurd ((lookup_cons_same m b v).symm.trans (h b hb)) hv
    | cons c n =>
      obtain ⟨c, w⟩ := c
      obtain ⟨-, hc, hw, hn'⟩ := Memory.wfFrom_cons.1 hn
      have hcb : c ≤ b := first_le_of_lookup_ne hn (by rwa [← h b hb, lookup_cons_same])
      have hbc : b ≤ c := first_le_of_lookup_ne hm (by rwa [h c hc, lookup_cons_same])
      obtain rfl : b = c := le_antisymm hbc hcb
      obtain rfl : v = w := by simpa using h b hb
      have htail : ∀ a, a < Memory.size → Memory.lookup m a = Memory.lookup n a := fun a ha => by
        by_cases hab : a = b
        · rw [lookup_of_lt hm' (by omega), lookup_of_lt hn' (by omega)]
        · rw [← lookup_cons_of_ne m v hab, h a ha, lookup_cons_of_ne n v hab]
      rw [ih (Memory.wfFrom_mono hm' (Nat.zero_le _)) (Memory.wfFrom_mono hn' (Nat.zero_le _)) htail]

/-! ## What an image leaves in a store (R191) -/

theorem lookup_ofImageFrom_first {a : Nat} (v : Byte) (image : List Byte) (ha : a < Memory.size) :
    Memory.lookup (Memory.ofImageFrom a (v :: image)) a = v := by
  rw [Memory.ofImageFrom, if_pos ha]
  by_cases hv : v = Memory.unlisted
  · rw [if_pos hv, lookup_of_lt (Memory.wfFrom_ofImageFrom image (a + 1)) (Nat.lt_succ_self a), hv]
  · rw [if_neg hv, lookup_cons_same]

theorem lookup_ofImageFrom_rest {a x : Nat} (v : Byte) (image : List Byte) (ha : a < Memory.size) (hx : x ≠ a) :
    Memory.lookup (Memory.ofImageFrom a (v :: image)) x = Memory.lookup (Memory.ofImageFrom (a + 1) image) x := by
  rw [Memory.ofImageFrom, if_pos ha]
  by_cases hv : v = Memory.unlisted
  · rw [if_pos hv]
  · rw [if_neg hv, lookup_cons_of_ne _ v hx]

/-- An image loaded at `a` puts its byte `n` at `a + n` as long as that is inside the store, and pads with 0x00. -/
theorem lookup_ofImageFrom (image : List Byte) {a n : Nat} (h : a + n < Memory.size) :
    Memory.lookup (Memory.ofImageFrom a image) (a + n) = image.getD n 0x00#8 := by
  induction image generalizing a n with
  | nil => rfl
  | cons v image ih =>
    cases n with
    | zero => exact lookup_ofImageFrom_first v image h
    | succ n =>
      have hnext : a + (n + 1) = a + 1 + n := by omega
      rw [lookup_ofImageFrom_rest v image (by omega) (by omega), hnext]
      exact ih (by omega)

theorem readProg_construct (init : InitValues) (image : List Byte) (a : Addr) :
    (construct init image).readProg a = image.getD a.toNat 0x00#8 := by
  have h := lookup_ofImageFrom image (a := 0) (n := a.toNat) (by simpa [Memory.size] using a.isLt)
  rwa [Nat.zero_add] at h

/-! ## The stores along a run -/

/-- What every step keeps, every number of steps keeps. -/
theorem stepMany_keeps {P : State → Prop} (hstep : ∀ s t, step s = .next t → P s → P t) {k : Nat} {s t : State}
    (h : stepMany k s = .next t) (hs : P s) : P t := by
  induction k generalizing s with
  | zero =>
    cases h
    exact hs
  | succ k ih =>
    obtain ⟨u, hu, hrun⟩ := andThen_eq_next h
    exact ih hrun (hstep s u hu hs)

theorem step_prog {s t : State} (h : step s = .next t) : t.prog = s.prog := by
  rw [step_eq_next h]
  rfl

theorem stepMany_prog {k : Nat} {s t : State} (h : stepMany k s = .next t) : t.prog = s.prog :=
  stepMany_keeps (P := fun u => u.prog = s.prog) (fun _ _ hstep hu => (step_prog hstep).trans hu) h rfl

/-- store-mem is the only instruction that writes the data store (R50). -/
theorem dataAfterExec_of_ne_storeMem {i : Instr} (s : State) (h : ∀ r, i ≠ .storeMem r) :
    dataAfterExec i s = s.data := by
  cases i with
  | storeMem r => exact absurd rfl (h r)
  | _ => rfl

/-! ## A store-mem and the load-mem after it -/

theorem marOperand_afterExec_storeMem (r : RegIndex) (s : State) :
    marOperand (afterExec (.storeMem r) s) = marOperand s := rfl

theorem readData_afterExec_storeMem (r : RegIndex) (s : State) :
    (afterExec (.storeMem r) s).readData (marOperand s) = s.readReg r :=
  Memory.read_write_same s.data (marOperand s) (s.readReg r)

theorem readReg_afterExec_loadMem {q : RegIndex} (s : State) (hq : q.toNat < 8) :
    (afterExec (.loadMem q) s).readReg q = s.readData (marOperand s) :=
  RegFile.read_write_same s.regs _ hq

/-! ## The obligations of the family 20_memory.md -/

/-- Settles O17: a step keeps the program store, so a run does, and a constructed one reads as the image. -/
theorem programStoreIsTheImageForTheWholeRun : Obligations.ProgramStoreIsTheImageForTheWholeRun := by
  have hkept : ∀ (k : Nat) (s t : State), stepMany k s = .next t → ∀ a, t.readProg a = s.readProg a :=
    fun _ _ _ h a => congrArg (Memory.read · a) (stepMany_prog h)
  refine ⟨hkept, fun k init image t h a => ?_⟩
  rw [hkept k _ t h a, readProg_construct]

/-- Settles O12: cell by cell, since the first cells must agree. -/
theorem canonicalStoresWithEqualBytesAreEqual : Obligations.CanonicalStoresWithEqualBytesAreEqual := by
  intro m n hm hn h
  refine eq_of_lookup_eq hm hn fun a ha => ?_
  have hread := h (BitVec.ofNat 16 a)
  have hnum : (BitVec.ofNat 16 a).toNat = a := Nat.mod_eq_of_lt ha
  rwa [Memory.read, Memory.read, hnum] at hread

/-- Settles O13 by the two stores that the execute phase leaves. -/
theorem nonStoringInstructionsKeepEveryByte : Obligations.NonStoringInstructionsKeepEveryByte := by
  intro i s t h
  rw [exec_eq_next h]
  refine ⟨fun _ => rfl, fun hi a => ?_⟩
  exact congrArg (Memory.read · a) (dataAfterExec_of_ne_storeMem s hi)

/-- Settles O45: store-mem keeps the MAR, so load-mem reads the cell that was written. -/
theorem loadMemReturnsTheLastStore : Obligations.LoadMemReturnsTheLastStore := by
  intro s t r q h hq
  rw [exec_eq_next h]
  refine ⟨_, exec_of_code_ne (by simp [Instr.code]) _, ?_⟩
  rw [readReg_afterExec_loadMem _ hq, marOperand_afterExec_storeMem, readData_afterExec_storeMem]

/-- Settles O11: each write is a write of one store, by the two laws of `Memory.write`. -/
theorem storesReadBackWhatWasWritten : Obligations.StoresReadBackWhatWasWritten := by
  intro s a b v
  have hsame : ∀ m : Memory, Memory.read (Memory.write m a v) a = v := fun m => Memory.read_write_same m a v
  have hother : ∀ m : Memory, b ≠ a → Memory.read (Memory.write m a v) b = Memory.read m b :=
    fun m h => Memory.read_write_other m v h
  exact ⟨hsame s.data, hother s.data, rfl, hsame s.prog, hother s.prog, rfl⟩

end Sys2Proof.Proofs

/-! # What an opcode byte decodes to, and what a step does with the decoded instruction -/

namespace Sys2Proof.Proofs

open Sys2Proof.Machine

/-! ## The fields of an opcode byte in numbers (R70) -/

theorem opcodeField_toNat (op : Byte) : (opcodeField op).toNat = op.toNat % 32 := by
  simp [opcodeField]

theorem registerField_toNat (op : Byte) : (registerField op).toNat = op.toNat / 32 := by
  have hop := op.isLt
  simp [registerField, Nat.shiftRight_eq_div_pow]
  omega

theorem registerField_eq_ofNat (op : Byte) : registerField op = BitVec.ofNat 8 (op.toNat / 32) := by
  rw [← registerField_toNat, BitVec.ofNat_toNat, BitVec.setWidth_eq]

theorem opcodeField_eq_iff (op : Byte) : opcodeField op = 22#5 ↔ op.toNat % 32 = 22 := by
  rw [← opcodeField_toNat]
  exact BitVec.toNat_eq (y := 22#5)

/-- The byte `R * 32 + I` has the code `I` (R70). -/
theorem opcodeNumber_mod (k : Nat) {code : Nat} (hcode : code < 32) :
    (BitVec.ofNat 8 (k * 32 + code)).toNat % 32 = code := by
  rw [BitVec.toNat_ofNat]
  omega

/-! ## An instruction is its code, its register operand and its operand bytes (R70, R72, R75) -/

/-- The opcode map gives an instruction back from its three parts. -/
theorem instrOf_parts (i : Instr) :
    instrOf i.code (i.regOperand?.getD 0#8) (i.operandBytes.headD 0#8) = i := by
  cases i <;> rfl

theorem instr_ext {i j : Instr} (hcode : i.code = j.code) (hreg : i.regOperand? = j.regOperand?)
    (hbytes : i.operandBytes = j.operandBytes) : i = j := by
  rw [← instrOf_parts i, hcode, hreg, hbytes, instrOf_parts]

/-- Code 22 is load-immediate's alone (R75). -/
theorem exists_loadImmediate_of_code {i : Instr} (h : i.code = 22#5) : ∃ r imm, i = .loadImmediate r imm := by
  cases i with
  | loadImmediate r imm => exact ⟨r, imm, rfl⟩
  | _ => simp [Instr.code] at h

/-- Only code 22 has an operand byte (R72). -/
theorem operandBytes_of_code_ne {i : Instr} (h : i.code ≠ 22#5) : i.operandBytes = [] := by
  cases i with
  | loadImmediate r imm => exact absurd rfl h
  | _ => rfl

/-- The register operand that a well-formed instruction is encoded with is the index of a slot; one that ignores R is
encoded with R = 0 (R80). -/
theorem encodedRegister_lt {i : Instr} (h : WellFormed i) : (i.regOperand?.getD 0#8).toNat < 8 := by
  cases hreg : i.regOperand? with
  | none => decide
  | some r => exact (Laws.wellFormed_iff i).1 h r hreg

/-! ## The decoded instruction of an opcode byte (R70, R72, R75) -/

theorem decodeOp_code (op x : Byte) : (decodeOp op x).code = opcodeField op :=
  Laws.instrOf_code _ _ _

/-- The column "uses R" of the opcode map (R75). -/
theorem instrOf_regOperand_eq (c : BitVec 5) (r : RegIndex) (x : Byte) :
    (instrOf c r x).regOperand? = if c.toNat ∈ Claims.usingCodes then some r else none := by
  obtain ⟨⟨n, h⟩⟩ := c
  interval_cases n <;> rfl

theorem decodeOp_regOperand (op x : Byte) :
    (decodeOp op x).regOperand? =
      if op.toNat % 32 ∈ Claims.usingCodes then some (BitVec.ofNat 8 (op.toNat / 32)) else none := by
  rw [← opcodeField_toNat, ← registerField_eq_ofNat]
  exact instrOf_regOperand_eq _ _ _

/-- The codes that R74 lists are 5-bit codes that R75 marks as not using R. -/
theorem ignoringCodes_spec : ∀ code ∈ Claims.ignoringCodes, code < 32 ∧ code ∉ Claims.usingCodes := by
  decide

theorem decodeOp_wellFormed (op x : Byte) : WellFormed (decodeOp op x) :=
  (Laws.wellFormed_iff _).2 (registerFilePortIsTotal.2 op x)

theorem decodeOp_opcodeByte {r : RegIndex} (c : BitVec 5) (x : Byte) (hr : r.toNat < 8) :
    decodeOp (opcodeByte r c) x = instrOf c r x := by
  rw [decodeOp, Laws.opcodeField_opcodeByte, Laws.registerField_opcodeByte c hr]

theorem decodeOp_of_code_eq {op : Byte} (h : opcodeField op = 22#5) (x : Byte) :
    decodeOp op x = .loadImmediate (registerField op) x := by
  rw [decodeOp, h]
  rfl

/-- Apart from code 22, the code and the register operand are all that the two bytes tell. -/
theorem decodeOp_congr {op op' x y : Byte} (hne : opcodeField op ≠ 22#5) (hcode : opcodeField op = opcodeField op')
    (hreg : (decodeOp op x).regOperand? = (decodeOp op' y).regOperand?) : decodeOp op x = decodeOp op' y := by
  refine instr_ext ?_ hreg ?_
  · rw [decodeOp_code, decodeOp_code, hcode]
  · rw [operandBytes_of_code_ne (by rwa [decodeOp_code]), operandBytes_of_code_ne (by rwa [decodeOp_code, ← hcode])]

/-- An instruction of another code than 22 does not depend on the byte after its opcode. -/
theorem decodeOp_operand_ignored {op : Byte} (h : opcodeField op ≠ 22#5) (x y : Byte) :
    decodeOp op x = decodeOp op y :=
  decodeOp_congr h rfl (by rw [decodeOp_regOperand, decodeOp_regOperand])

/-- Two opcode bytes of one code that does not use R decode alike, whatever follows them (R74). -/
theorem decodeOp_eq_of_ignoring {op op' : Byte} (hcode : op.toNat % 32 = op'.toNat % 32)
    (hign : op.toNat % 32 ∉ Claims.usingCodes) (x y : Byte) : decodeOp op x = decodeOp op' y := by
  refine decodeOp_congr ?_ ?_ ?_
  · exact fun e => hign (by rw [(opcodeField_eq_iff op).1 e]; decide)
  · exact BitVec.eq_of_toNat_eq (by rw [opcodeField_toNat, opcodeField_toNat, hcode])
  · rw [decodeOp_regOperand, decodeOp_regOperand, if_neg hign, if_neg (hcode ▸ hign)]

/-! ## The decoder on a byte sequence (R72) -/

theorem decode_of_code_ne {op : Byte} (h : opcodeField op ≠ 22#5) (rest : List Byte) :
    decode (op :: rest) = .ok (decodeOp op 0#8) rest := by
  simp [decode, lengthOfCode, h]

theorem decode_of_code_eq {op : Byte} (h : opcodeField op = 22#5) (x : Byte) (rest : List Byte) :
    decode (op :: x :: rest) = .ok (decodeOp op x) rest := by
  simp [decode, lengthOfCode, h]

theorem decode_lone_of_code_eq {op : Byte} (h : opcodeField op = 22#5) :
    decode [op] = .refused .noOperandByte := by
  simp [decode, lengthOfCode, h]

/-! ## The step of a fetched instruction (R71) -/

theorem step_of_pc_ne {s : State} (h : s.pc ≠ 0xFFFF#16) :
    step s = exec (fetchInstr s) (s.setPc (s.pc + 1#16)) := by
  have hstep : step s = andThen (pcInc Config.pcOverflow s) (exec (fetchInstr s)) := rfl
  rw [hstep, pcInc_of_ne h, andThen_next]

/-- The state after the step of a load-immediate: its execute phase starts at the address after the opcode byte. -/
def afterLoadImmediate (r : RegIndex) (imm : Byte) (s : State) : State :=
  afterExec (.loadImmediate r imm) (s.setPc (s.pc + 1#16))

theorem afterLoadImmediate_pc (r : RegIndex) (imm : Byte) (s : State) :
    (afterLoadImmediate r imm s).pc = s.pc + 2#16 :=
  BitVec.add_assoc s.pc 1#16 1#16

theorem readReg_afterLoadImmediate_same {r : RegIndex} (imm : Byte) (s : State) (hr : r.toNat < 8) :
    (afterLoadImmediate r imm s).readReg r = imm :=
  RegFile.read_write_same s.regs imm hr

theorem readReg_afterLoadImmediate_other {r j : RegIndex} (imm : Byte) (s : State) (hj : j ≠ r) :
    (afterLoadImmediate r imm s).readReg j = s.readReg j :=
  RegFile.read_write_other s.regs imm hj

/-- The step of a load-immediate whose two increments do not overflow. -/
theorem step_loadImmediate {s : State} {r : RegIndex} {imm : Byte} (hr : r.toNat < 8)
    (hop : s.readProg s.pc = opcodeByte r 22#5) (himm : s.readProg (s.pc + 1#16) = imm)
    (hpc : s.pc.toNat < 65534) : step s = .next (afterLoadImmediate r imm s) := by
  have hfetch : fetchInstr s = .loadImmediate r imm := by
    rw [fetchInstr, hop, himm, decodeOp_opcodeByte _ _ hr]
    rfl
  have hfirst : s.pc ≠ 0xFFFF#16 := by bv_omega
  have hsecond : s.pc + 1#16 ≠ 0xFFFF#16 := by bv_omega
  rw [step_of_pc_ne hfirst, hfetch]
  exact (exec_loadImmediate_cases r imm _).resolve_right fun ⟨hpc', _⟩ => hsecond hpc'

/-! ## set-mar (R81) -/

/-- The four bytes of set-mar. -/
theorem setMar_bytes (a : Addr) :
    (setMar a).flatMap encode =
      [opcodeByte 6#8 22#5, a.extractLsb' 0 8, opcodeByte 7#8 22#5, a.extractLsb' 8 8] := rfl

theorem lowByte_eq (a : Addr) : a.extractLsb' 0 8 = BitVec.ofNat 8 (a.toNat % 256) := by
  apply BitVec.eq_of_toNat_eq
  simp

theorem highByte_eq (a : Addr) : a.extractLsb' 8 8 = BitVec.ofNat 8 (a.toNat / 256) := by
  apply BitVec.eq_of_toNat_eq
  simp [Nat.shiftRight_eq_div_pow]

theorem highByte_append_lowByte (a : Addr) : a.extractLsb' 8 8 ++ a.extractLsb' 0 8 = a :=
  calc a.extractLsb' 8 8 ++ a.extractLsb' 0 8
      = a.extractLsb' 0 (8 + 8) := BitVec.extractLsb'_append_extractLsb'_eq_extractLsb' (by decide)
    _ = a := BitVec.extractLsb'_eq_self

/-- The state after set-mar: the low byte of the MAR, then the high byte. -/
def afterSetMar (a : Addr) (s : State) : State :=
  afterLoadImmediate 7#8 (a.extractLsb' 8 8) (afterLoadImmediate 6#8 (a.extractLsb' 0 8) s)

theorem afterSetMar_pc (a : Addr) (s : State) : (afterSetMar a s).pc = s.pc + 4#16 := by
  rw [afterSetMar, afterLoadImmediate_pc, afterLoadImmediate_pc]
  exact BitVec.add_assoc s.pc 2#16 2#16

theorem readReg_afterSetMar_other {a : Addr} {j : RegIndex} (s : State) (h6 : j ≠ 6#8) (h7 : j ≠ 7#8) :
    (afterSetMar a s).readReg j = s.readReg j := by
  rw [afterSetMar, readReg_afterLoadImmediate_other _ _ h7, readReg_afterLoadImmediate_other _ _ h6]

theorem marOperand_afterSetMar (a : Addr) (s : State) : marOperand (afterSetMar a s) = a := by
  have hhigh : (afterSetMar a s).readReg 7#8 = a.extractLsb' 8 8 :=
    readReg_afterLoadImmediate_same _ _ (by decide)
  have hlow : (afterSetMar a s).readReg 6#8 = a.extractLsb' 0 8 := by
    rw [afterSetMar, readReg_afterLoadImmediate_other _ _ (by decide),
      readReg_afterLoadImmediate_same _ _ (by decide)]
  rw [marOperand, hhigh, hlow, highByte_append_lowByte]

/-- Two steps over the bytes of set-mar leave `afterSetMar`. -/
theorem stepMany_setMar {a : Addr} {s : State} (hpc : s.pc.toNat ≤ 65531)
    (hbytes : ∀ n, n < 4 → s.readProg (s.pc + BitVec.ofNat 16 n) = ((setMar a).flatMap encode).getD n 0#8) :
    stepMany 2 s = .next (afterSetMar a s) := by
  have hlow : step s = .next (afterLoadImmediate 6#8 (a.extractLsb' 0 8) s) := by
    have hop := hbytes 0 (by decide)
    rw [BitVec.add_zero] at hop
    exact step_loadImmediate (by decide) hop (hbytes 1 (by decide)) (by omega)
  have hhigh : step (afterLoadImmediate 6#8 (a.extractLsb' 0 8) s) = .next (afterSetMar a s) := by
    refine step_loadImmediate (by decide) ?_ ?_ ?_ <;> rw [afterLoadImmediate_pc]
    · exact hbytes 2 (by decide)
    · rw [BitVec.add_assoc]
      exact hbytes 3 (by decide)
    · bv_omega
  rw [stepMany, hlow, andThen_next, stepMany, hhigh, andThen_next, stepMany]

/-! ## The obligations of the family 30_encoding.md -/

/-- Settles O1: the decoder reads the two fields of the opcode byte back, and the opcode map gives the instruction from
its parts. -/
theorem decodeEncodeRoundTrip : Obligations.DecodeEncodeRoundTrip := by
  intro i hi rest
  have hfield := Laws.opcodeField_opcodeByte (i.regOperand?.getD 0#8) i.code
  have hdecode : decodeOp (opcodeByte (i.regOperand?.getD 0#8) i.code) (i.operandBytes.headD 0#8) = i := by
    rw [decodeOp_opcodeByte _ _ (encodedRegister_lt hi), instrOf_parts]
  by_cases hcode : i.code = 22#5
  · obtain ⟨r, imm, rfl⟩ := exists_loadImmediate_of_code hcode
    exact (decode_of_code_eq hfield imm rest).trans (congrArg (Decoded.ok · rest) hdecode)
  · have hbytes := operandBytes_of_code_ne hcode
    rw [hbytes] at hdecode
    rw [encode, hbytes]
    exact (decode_of_code_ne (fun e => hcode (hfield ▸ e)) rest).trans (congrArg (Decoded.ok · rest) hdecode)

/-- Settles O2: a decoded register operand is a 3-bit field, and the execute phase can fail in code 22 alone. -/
theorem everyBytePairIsExecutable : Obligations.EveryBytePairIsExecutable := by
  intro op x
  refine ⟨decodeOp_wellFormed op x, fun s => ?_⟩
  rcases exec_cases (decodeOp op x) s with hnext | ⟨hcode, hpc, hmode, hfault⟩
  · exact .inl ⟨_, hnext⟩
  · rw [decodeOp_code] at hcode
    exact .inr ⟨hfault, (opcodeField_eq_iff op).1 hcode, hpc, hmode⟩

/-- Settles O3: the two bytes have one code, which has neither a register operand nor an operand byte. -/
theorem ignoredRegisterFieldDecodesAlike : Obligations.IgnoredRegisterFieldDecodesAlike := by
  intro code hmem k j _ _ x y
  obtain ⟨hlt, hign⟩ := ignoringCodes_spec code hmem
  apply decodeOp_eq_of_ignoring
  · rw [opcodeNumber_mod k hlt, opcodeNumber_mod j hlt]
  · rwa [opcodeNumber_mod k hlt]

/-- Settles O4 by the fields in numbers and the opcode map's two columns. -/
theorem opcodeFieldsSelectInstruction : Obligations.OpcodeFieldsSelectInstruction := by
  intro op x
  refine ⟨by rw [decodeOp_code, opcodeField_toNat], decodeOp_regOperand op x, ?_, Laws.registerField_lt op⟩
  rw [registerField_toNat, opcodeField_toNat]
  omega

/-- Settles O5: code 22 takes the byte after the opcode, every other code ignores it. -/
theorem decoderConsumesOneOrTwoBytes : Obligations.DecoderConsumesOneOrTwoBytes := by
  intro op x rest
  simp only [← opcodeField_eq_iff]
  by_cases h : opcodeField op = 22#5
  · rw [if_pos h, if_pos h]
    refine ⟨decode_of_code_eq h x rest, fun _ => ?_, decode_lone_of_code_eq h⟩
    rw [decodeOp_of_code_eq h, registerField_eq_ofNat]
  · rw [if_neg h, if_neg h, decode_of_code_ne h, decode_of_code_ne h, decodeOp_operand_ignored h 0#8 x]
    exact ⟨rfl, fun e => absurd e h, rfl⟩

/-- Settles O59: the two steps are two load-immediates, of the low and of the high byte of the MAR. -/
theorem setMarLoadsTheMarOnly : Obligations.SetMarLoadsTheMarOnly := by
  intro a
  refine ⟨by rw [setMar_bytes, lowByte_eq, highByte_eq]; rfl, fun s hpc hbytes => ?_⟩
  refine ⟨afterSetMar a s, stepMany_setMar hpc hbytes, ?_, ?_, rfl, rfl, fun j => readReg_afterSetMar_other s,
    fun _ => rfl, fun _ => rfl⟩
  · rw [marNumber_eq_marOperand, marOperand_afterSetMar]
  · rw [afterSetMar_pc]
    bv_omega

/-- Settles O7: below 0xFFFF the increment is not open; at 0xFFFF each value of the parameter is one case. -/
theorem stepRunsTheFetchedInstruction : Obligations.StepRunsTheFetchedInstruction := by
  rintro s i rfl -
  refine ⟨step_of_pc_ne, fun hpc => ?_, fun t h => ?_⟩
  · have hstep : step s = andThen (pcInc Config.pcOverflow s) (exec (fetchInstr s)) := rfl
    rw [hstep]
    cases Config.pcOverflow with
    | wrap => rw [pcInc_wrap hpc]; rfl
    | fault => rw [pcInc_fault hpc]; rfl
  · rw [step_eq_next h]
    rfl

end Sys2Proof.Proofs

/-! # The ALU instructions: their next states in numbers -/

namespace Sys2Proof.Proofs

open Sys2Proof.Machine

/-! ## The eight opcode bytes of a code (R70, R75) -/

/-- The byte `R * 32 + I` is made of the R field and the code. -/
theorem opcodeByte_ofNat {k code : Nat} (hk : k < 8) (hcode : code < 32) :
    opcodeByte (BitVec.ofNat 8 k) (BitVec.ofNat 5 code) = BitVec.ofNat 8 (k * 32 + code) := by
  apply BitVec.eq_of_toNat_eq
  have happend := Nat.shiftLeft_add_eq_or_of_lt (i := 5) hcode k
  rw [Nat.shiftLeft_eq] at happend
  simp only [opcodeByte, BitVec.toNat_append, BitVec.extractLsb'_toNat, BitVec.toNat_ofNat, Nat.shiftRight_zero,
    Nat.shiftLeft_eq]
  rw [Nat.mod_mod_of_dvd k (by decide), Nat.mod_eq_of_lt hk, Nat.mod_eq_of_lt hcode]
  omega

/-- A row of the opcode map that does not read the operand byte gives the eight opcode bytes of its code. -/
theorem encodedAt_of_instrOf {code : Nat} {f : RegIndex → Instr} (hcode : code < 32)
    (hrow : ∀ r x, instrOf (BitVec.ofNat 5 code) r x = f r) : Claims.EncodedAt code f := by
  intro k hk x
  have hslot : (BitVec.ofNat 8 k).toNat < 8 := by
    rw [BitVec.toNat_ofNat]
    omega
  rw [← opcodeByte_ofNat hk hcode, decodeOp_opcodeByte _ _ hslot, hrow]

/-! ## The results in the numbers of the claims (R101 to R110) -/

theorem b2n_eq_toNat (c : Bool) : b2n c = c.toNat := by
  cases c <;> rfl

theorem subOp_result_toNat (a b : Byte) : (subOp a b).result.toNat = Claims.difference a.toNat b.toNat 0 :=
  cmpOp_result_toNat a b

theorem sbcOp_result_toNat (a b : Byte) (c : Bool) :
    (sbcOp a b c).result.toNat = Claims.difference a.toNat b.toNat c.toNat := by
  have hres := sbcOp_result a b c
  have hb := b.isLt
  have hc := c.toNat_le
  rw [b2n_eq_toNat] at hres
  unfold Claims.difference
  omega

theorem adcOp_result_toNat (a b : Byte) (c : Bool) :
    (adcOp a b c).result.toNat = (a.toNat + b.toNat + c.toNat) % 256 := by
  rw [adcOp_result, b2n_eq_toNat]

theorem adcOp_carry (a b : Byte) (c : Bool) :
    (adcOp a b c).carry = decide (255 < a.toNat + b.toNat + c.toNat) := by
  rw [← b2n_eq_toNat]
  rfl

theorem rorOp_result_toNat (m : Bool) (a : Byte) (c : Bool) :
    (rorOp m a c).result.toNat = (if c && m then 128 else 0) + a.toNat / 2 := by
  simp only [rorOp_result, Bool.and_eq_true]

theorem rorOp_carry (m : Bool) (a : Byte) (c : Bool) : (rorOp m a c).carry = decide (a.toNat % 2 = 1) :=
  Nat.testBit_zero a.toNat

theorem norOp_result_toNat (a b : Byte) (c : Bool) :
    (norOp a b c).result.toNat = 255 - (a.toNat ||| b.toNat) := by
  rw [norOp, BitVec.toNat_not, BitVec.toNat_or]

theorem andOp_result_toNat (a b : Byte) (c : Bool) : (andOp a b c).result.toNat = (a.toNat &&& b.toNat) :=
  BitVec.toNat_and a b

/-- Two bytes have the difference 0 exactly when they are equal. -/
theorem difference_eq_zero_iff (a b : Byte) : Claims.difference a.toNat b.toNat 0 = 0 ↔ a = b := by
  have ha := a.isLt
  have hb := b.isLt
  rw [BitVec.toNat_eq, Claims.difference]
  omega

/-! ## The two common frames (R100) -/

/-- The flags after an ALU operation, all four, from its result and its carry alone (R33, R100). -/
theorem aluFlags_eq_flagsOf (o : AluOut) (f : Flags) : aluFlags o f = Claims.flagsOf o.result.toNat o.carry := by
  rw [Claims.flagsOf, ← aluFlags_zero o f, ← aluFlags_parity o f, ← aluFlags_sign o f]
  rfl

theorem aluStore_eq_afterAlu (o : AluOut) (s : State) :
    aluStore o s = .next (Claims.afterAlu o.result.toNat o.carry s) := by
  rw [Claims.afterAlu, BitVec.ofNat_toNat, BitVec.setWidth_eq, ← aluFlags_eq_flagsOf o s.flags]
  exact aluStore_eq o s

theorem aluFlagsOnly_eq_flagsOf (o : AluOut) (s : State) :
    aluFlagsOnly o s =
      .next { s with flags := Claims.flagsOf o.result.toNat o.carry, continueOut := true } := by
  rw [← aluFlags_eq_flagsOf o s.flags]
  exact aluFlagsOnly_eq o s

/-- An instruction of codes 0 to 7 leaves `afterAlu` of its operation's result and carry. -/
theorem exec_eq_afterAlu {i : Instr} {s : State} {o : AluOut} {res : Nat} {c : Bool} (hexec : exec i s = aluStore o s)
    (hres : o.result.toNat = res) (hcarry : o.carry = c) : exec i s = .next (Claims.afterAlu res c s) := by
  rw [hexec, aluStore_eq_afterAlu, hres, hcarry]

/-- The accumulator that `afterAlu` leaves, for a number that is a byte. -/
theorem afterAlu_acc_toNat {res : Nat} (hres : res < 256) (c : Bool) (s : State) :
    (Claims.afterAlu res c s).acc.toNat = res :=
  (BitVec.toNat_ofNat res 8).trans (Nat.mod_eq_of_lt hres)

/-! ## The carry after a subtraction -/

/-- Codes 1, 3, 8 and 9 leave the carry set. -/
theorem carry_set_of_exec {i : Instr} {s t : State} (hcode : i.code.toNat ∈ [1, 3, 8, 9])
    (h : exec i s = .next t) : t.flags.carry = true := by
  rw [exec_eq_next h]
  exact flagsAfterExec_carry_set s hcode

/-- Each of the three subtractions leaves the carry set, whatever the borrow (R102, R104, R109). -/
theorem carry_set_of_subtraction {s t : State} {r : RegIndex}
    (h : exec (.sub r) s = .next t ∨ exec (.sbc r) s = .next t ∨ exec (.cmp r) s = .next t) :
    t.flags.carry = true := by
  rcases h with hsub | hsbc | hcmp
  · exact carry_set_of_exec (by simp [Instr.code]) hsub
  · exact carry_set_of_exec (by simp [Instr.code]) hsbc
  · exact carry_set_of_exec (by simp [Instr.code]) hcmp

/-! ## The obligations of the family 40_alu.md -/

/-- Settles O18: the sum and its carry are those of `addOp`. -/
theorem addStoresSumAndCarry : Obligations.AddStoresSumAndCarry :=
  ⟨encodedAt_of_instrOf (by decide) fun _ _ => rfl,
    fun _ _ => exec_eq_afterAlu rfl (addOp_result _ _) rfl⟩

/-- Settles O19 by the difference that `subOp` computes; its carry is the constant 1. -/
theorem subStoresDifferenceAndSetsCarry : Obligations.SubStoresDifferenceAndSetsCarry :=
  ⟨encodedAt_of_instrOf (by decide) fun _ _ => rfl,
    fun _ _ => exec_eq_afterAlu rfl (subOp_result_toNat _ _) rfl⟩

/-- Settles O20: both the sum and the carry of `adcOp` are from the unbounded sum with the old carry. -/
theorem adcStoresSumWithCarry : Obligations.AdcStoresSumWithCarry :=
  ⟨encodedAt_of_instrOf (by decide) fun _ _ => rfl,
    fun _ _ => exec_eq_afterAlu rfl (adcOp_result_toNat _ _ _) (adcOp_carry _ _ _)⟩

/-- Settles O21 by the difference that `sbcOp` computes with the old carry; its carry is the constant 1. -/
theorem sbcStoresDifferenceWithCarry : Obligations.SbcStoresDifferenceWithCarry :=
  ⟨encodedAt_of_instrOf (by decide) fun _ _ => rfl,
    fun _ _ => exec_eq_afterAlu rfl (sbcOp_result_toNat _ _ _) rfl⟩

/-- Settles O22 for both values of the open parameter, which stays a variable of `rorOp`. -/
theorem rorShiftsRightWithTheParameterBit : Obligations.RorShiftsRightWithTheParameterBit :=
  ⟨encodedAt_of_instrOf (by decide) fun _ _ => rfl,
    fun _ => exec_eq_afterAlu rfl (rorOp_result_toNat _ _ _) (rorOp_carry _ _ _)⟩

/-- Settles O23: `norOp` hands the old carry on, and a byte's complement is 255 less the byte. -/
theorem norStoresResultAndKeepsCarry : Obligations.NorStoresResultAndKeepsCarry :=
  ⟨encodedAt_of_instrOf (by decide) fun _ _ => rfl,
    fun _ _ => exec_eq_afterAlu rfl (norOp_result_toNat _ _ _) rfl⟩

/-- Settles O24: `andOp` hands the old carry on. -/
theorem andStoresResultAndKeepsCarry : Obligations.AndStoresResultAndKeepsCarry :=
  ⟨encodedAt_of_instrOf (by decide) fun _ _ => rfl,
    fun _ _ => exec_eq_afterAlu rfl (andOp_result_toNat _ _ _) rfl⟩

/-- Settles O25: the result 0 gives the three flags. -/
theorem reservedSevenStoresZero : Obligations.ReservedSevenStoresZero := by
  refine ⟨encodedAt_of_instrOf (by decide) fun _ _ => rfl, fun s => ?_⟩
  have hnext : exec .reserved7 s = .next (Claims.afterAlu 0 s.flags.carry s) := exec_eq_afterAlu rfl rfl rfl
  exact hnext

/-- Settles O26: the flags are those of the difference, which is 0 for equal bytes alone. -/
theorem cmpSetsFlagsAndKeepsAccumulator : Obligations.CmpSetsFlagsAndKeepsAccumulator := by
  refine ⟨encodedAt_of_instrOf (by decide) fun _ _ => rfl, fun s r => ⟨?_, ?_⟩⟩
  · have hexec : exec (.cmp r) s = aluFlagsOnly (cmpOp s.acc (s.readReg r)) s := rfl
    rw [hexec, aluFlagsOnly_eq_flagsOf, cmpOp_result_toNat]
    rfl
  · exact decide_eq_true_iff.trans (difference_eq_zero_iff _ _)

/-- Settles O28: the first subtraction leaves the carry 1, which the sbc subtracts. -/
theorem sbcAfterASubtractionTakesOneMore : Obligations.SbcAfterASubtractionTakesOneMore := by
  intro s t r q h
  refine ⟨_, sbcStoresDifferenceWithCarry.2 t q, ?_⟩
  rw [carry_set_of_subtraction h]
  exact afterAlu_acc_toNat (Nat.mod_lt _ (by decide)) true t

/-- Settles O29: the carry of the low sum is its quotient by 256, so the high sum is the quotient of the whole. -/
theorem addThenAdcAddsSixteenBits : Obligations.AddThenAdcAddsSixteenBits := by
  intro a₁ a₀ b₁ b₀
  have ha₀ := a₀.isLt
  have hb₀ := b₀.isLt
  have hquot : (addOp a₀ b₀).carry.toNat = (a₀.toNat + b₀.toNat) / 256 := by
    by_cases hsum : 255 < a₀.toNat + b₀.toNat
    · have hcarry : (addOp a₀ b₀).carry = true := decide_eq_true hsum
      rw [hcarry, Bool.toNat_true]
      omega
    · have hcarry : (addOp a₀ b₀).carry = false := decide_eq_false hsum
      rw [hcarry, Bool.toNat_false]
      omega
  rw [adcOp_result_toNat, adcOp_carry, addOp_result, hquot, decide_eq_decide]
  constructor <;> omega

end Sys2Proof.Proofs

/-! # The carry instructions and the transfers between the accumulator and a register -/

namespace Sys2Proof.Proofs

open Sys2Proof.Machine

/-! ## What one register write leaves (R21) -/

/-- A state whose register file is `s`'s after one write differs from `s` at the written index alone, and an index of
8 or more is not written. -/
theorem regWritten_of_regs_eq {s t : State} {r : RegIndex} {v : Byte} (h : t.regs = s.regs.write r v) :
    Claims.RegWritten r v s t := by
  intro j
  rw [State.readReg, h]
  by_cases hj : j = r
  · subst hj
    rcases Nat.lt_or_ge j.toNat 8 with hlt | hge
    · rw [if_pos ⟨rfl, hlt⟩, RegFile.read_write_same _ _ hlt]
    · rw [if_neg fun hwritten => Nat.not_lt.2 hge hwritten.2, RegFile.write_of_ge _ _ hge, State.readReg]
  · rw [if_neg fun hwritten => hj hwritten.1, RegFile.read_write_other _ _ hj, State.readReg]

theorem readReg_of_regWritten_same {s t : State} {r : RegIndex} {v : Byte} (h : Claims.RegWritten r v s t)
    (hr : r.toNat < 8) : t.readReg r = v :=
  (h r).trans (if_pos ⟨rfl, hr⟩)

theorem readReg_of_regWritten_other {s t : State} {r j : RegIndex} {v : Byte} (h : Claims.RegWritten r v s t)
    (hj : j ≠ r) : t.readReg j = s.readReg j :=
  (h j).trans (if_neg fun hwritten => hj hwritten.1)

/-! ## The MAR after one register write (R30) -/

/-- The MAR's number is not reduced: two bytes make at most 65535. -/
theorem marNumber_toNat (s : State) :
    (Claims.marNumber s).toNat = (s.readReg 7#8).toNat * 256 + (s.readReg 6#8).toNat := by
  have hlow := (s.readReg 6#8).isLt
  have hhigh := (s.readReg 7#8).isLt
  rw [Claims.marNumber, BitVec.toNat_ofNat]
  omega

theorem marNumber_toNat_of_lowWritten {s t : State} {v : Byte} (h : Claims.RegWritten 6#8 v s t) :
    (Claims.marNumber t).toNat = (s.readReg 7#8).toNat * 256 + v.toNat := by
  rw [marNumber_toNat, readReg_of_regWritten_same h (by decide), readReg_of_regWritten_other h (by decide)]

theorem marNumber_toNat_of_highWritten {s t : State} {v : Byte} (h : Claims.RegWritten 7#8 v s t) :
    (Claims.marNumber t).toNat = v.toNat * 256 + (s.readReg 6#8).toNat := by
  rw [marNumber_toNat, readReg_of_regWritten_same h (by decide), readReg_of_regWritten_other h (by decide)]

/-! ## The obligations of the family 41_carry_and_transfer.md -/

/-- Settles O30: of the fields that `afterExec` gives, the flags alone are new, and of the flags the carry. -/
theorem setAndClearCarryWriteOnlyCarry : Obligations.SetAndClearCarryWriteOnlyCarry :=
  ⟨encodedAt_of_instrOf (by decide) fun _ _ => rfl, encodedAt_of_instrOf (by decide) fun _ _ => rfl,
    fun s => ⟨exec_of_code_ne (i := .setCarry) (by decide) s, exec_of_code_ne (i := .clearCarry) (by decide) s⟩⟩

/-- Settles O31: of the fields that `afterExec` gives, the accumulator alone is new. -/
theorem loadAccCopiesTheRegister : Obligations.LoadAccCopiesTheRegister :=
  ⟨encodedAt_of_instrOf (by decide) fun _ _ => rfl,
    fun s r => exec_of_code_ne (i := .loadAcc r) (by simp [Instr.code]) s⟩

/-- Settles O32: the register file that `afterExec` leaves is one write away, and the MAR is read from it. -/
theorem storeAccWritesTheSelectedRegister : Obligations.StoreAccWritesTheSelectedRegister := by
  refine ⟨encodedAt_of_instrOf (by decide) fun _ _ => rfl, fun s r => ?_⟩
  have hexec : exec (.storeAcc r) s = .next (afterExec (.storeAcc r) s) :=
    exec_of_code_ne (by simp [Instr.code]) s
  have hwritten : Claims.RegWritten r s.acc s (afterExec (.storeAcc r) s) := regWritten_of_regs_eq rfl
  have hstores : Claims.SameStores s (afterExec (.storeAcc r) s) := ⟨fun _ => rfl, fun _ => rfl⟩
  refine ⟨_, hexec, hwritten, hstores, rfl, rfl, rfl, rfl, ?low, ?high⟩
  case low =>
    rintro rfl
    exact marNumber_toNat_of_lowWritten hwritten
  case high =>
    rintro rfl
    exact marNumber_toNat_of_highWritten hwritten

end Sys2Proof.Proofs

/-! # The jumps and call-save: where the pc goes, and the two link registers -/

namespace Sys2Proof.Proofs

open Sys2Proof.Machine

/-! ## The state after a jump (R130) -/

/-- The common rule of the jumps leaves the claims' `afterJump`. -/
theorem jumpWhen_eq_afterJump (taken : Bool) (s : State) :
    jumpWhen taken s = .next (Claims.afterJump taken s) := by
  rw [jumpWhen_eq, ← marNumber_eq_marOperand]
  rfl

/-- Codes 13 to 21 are the jumps: each follows the common rule with its own test of the flags. -/
theorem exec_of_jumpCode {i : Instr} (h13 : 13 ≤ i.code.toNat) (h21 : i.code.toNat ≤ 21) (s : State) :
    exec i s = .next (Claims.afterJump (jumpTaken i s.flags) s) := by
  cases i with
  | jmp | jmpIfCarry | jmpIfNotCarry | jmpIfZero | jmpIfNotZero | jmpIfSign | jmpIfNotSign | jmpIfParity
  | jmpIfNotParity => exact jumpWhen_eq_afterJump _ s
  | add | sub | adc | sbc | ror | nor | and | reserved7 | cmp | setCarry | clearCarry | loadAcc | storeAcc =>
    simp [Instr.code] at h13
  | _ => simp [Instr.code] at h21

theorem afterJump_pc_cases (taken : Bool) (s : State) :
    (Claims.afterJump taken s).pc = Claims.marNumber s ∨ (Claims.afterJump taken s).pc = s.pc := by
  cases taken with
  | true => exact .inl rfl
  | false => exact .inr rfl

/-- Where the MAR is not the pc, the pc tells a jump that is taken from one that is not. -/
theorem afterJump_false_ne_true {s : State} (hmar : Claims.marNumber s ≠ s.pc) :
    Claims.afterJump false s ≠ Claims.afterJump true s :=
  fun h => hmar (congrArg State.pc h).symm

/-! ## The link bytes of call-save (R141) -/

theorem lowByte_toNat (a : Addr) : (a.extractLsb' 0 8).toNat = a.toNat % 256 := by
  simp

theorem highByte_toNat (a : Addr) : (a.extractLsb' 8 8).toNat = a.toNat / 256 := by
  rw [highByte_eq, BitVec.toNat_ofNat, Nat.mod_eq_of_lt]
  omega

theorem exec_callSave (s : State) : exec .callSave s = .next (afterExec .callSave s) :=
  exec_of_code_ne (by decide) s

theorem readReg_afterCallSave (s : State) (j : RegIndex) :
    (afterExec .callSave s).readReg j =
      if j = 3#8 then s.pc.extractLsb' 8 8 else if j = 2#8 then s.pc.extractLsb' 0 8 else s.readReg j :=
  readReg_writeLinkOperands s.pc s j

theorem readReg_low_afterCallSave (s : State) :
    ((afterExec .callSave s).readReg 2#8).toNat = s.pc.toNat % 256 :=
  (congrArg BitVec.toNat (readReg_afterCallSave s 2#8)).trans (lowByte_toNat s.pc)

theorem readReg_high_afterCallSave (s : State) :
    ((afterExec .callSave s).readReg 3#8).toNat = s.pc.toNat / 256 :=
  (congrArg BitVec.toNat (readReg_afterCallSave s 3#8)).trans (highByte_toNat s.pc)

theorem readReg_other_afterCallSave (s : State) {j : RegIndex} (h2 : j ≠ 2#8) (h3 : j ≠ 3#8) :
    (afterExec .callSave s).readReg j = s.readReg j := by
  rw [readReg_afterCallSave, if_neg h3, if_neg h2]

/-- The two link bytes together are the pc at the execute phase. -/
theorem link_afterCallSave (s : State) :
    ((afterExec .callSave s).readReg 3#8).toNat * 256 + ((afterExec .callSave s).readReg 2#8).toNat = s.pc.toNat := by
  rw [readReg_high_afterCallSave, readReg_low_afterCallSave]
  exact Nat.div_add_mod' s.pc.toNat 256

/-- Code 23 is call-save's alone (R75). -/
theorem eq_callSave_of_code {i : Instr} (h : i.code.toNat = 23) : i = .callSave := by
  cases i with
  | callSave => rfl
  | _ => simp [Instr.code] at h

/-- Below 0xFFFF the step of a call-save is its execute phase at the address after the opcode byte (R71). -/
theorem step_callSave {s : State} (hcode : Claims.codeAtPc s = 23) (hpc : s.pc ≠ 0xFFFF#16) :
    step s = .next (afterExec .callSave (s.setPc (s.pc + 1#16))) := by
  have hfetch : fetchInstr s = .callSave := eq_callSave_of_code ((fetchInstr_code s).trans hcode)
  rw [step_of_pc_ne hpc, hfetch, exec_callSave]

/-! ## The obligations of the family 42_control_flow.md -/

/-- Settles O33: the jump whose test is always true. -/
theorem jmpGoesToTheMar : Obligations.JmpGoesToTheMar :=
  ⟨encodedAt_of_instrOf (by decide) fun _ _ => rfl, jumpWhen_eq_afterJump true⟩

/-- Settles O34: the common rule of the jumps with the carry flag, and with its negation. -/
theorem carryJumpsTestTheCarryFlag : Obligations.CarryJumpsTestTheCarryFlag :=
  ⟨encodedAt_of_instrOf (by decide) fun _ _ => rfl, encodedAt_of_instrOf (by decide) fun _ _ => rfl,
    fun s => ⟨jumpWhen_eq_afterJump s.flags.carry s, jumpWhen_eq_afterJump (!s.flags.carry) s⟩⟩

/-- Settles O35: the common rule of the jumps with the zero flag, and with its negation. -/
theorem zeroJumpsTestTheZeroFlag : Obligations.ZeroJumpsTestTheZeroFlag :=
  ⟨encodedAt_of_instrOf (by decide) fun _ _ => rfl, encodedAt_of_instrOf (by decide) fun _ _ => rfl,
    fun s => ⟨jumpWhen_eq_afterJump s.flags.zero s, jumpWhen_eq_afterJump (!s.flags.zero) s⟩⟩

/-- Settles O36: the common rule of the jumps with the sign flag, and with its negation. -/
theorem signJumpsTestTheSignFlag : Obligations.SignJumpsTestTheSignFlag :=
  ⟨encodedAt_of_instrOf (by decide) fun _ _ => rfl, encodedAt_of_instrOf (by decide) fun _ _ => rfl,
    fun s => ⟨jumpWhen_eq_afterJump s.flags.sign s, jumpWhen_eq_afterJump (!s.flags.sign) s⟩⟩

/-- Settles O37: the common rule of the jumps with the parity flag, and with its negation. -/
theorem parityJumpsTestTheParityFlag : Obligations.ParityJumpsTestTheParityFlag :=
  ⟨encodedAt_of_instrOf (by decide) fun _ _ => rfl, encodedAt_of_instrOf (by decide) fun _ _ => rfl,
    fun s => ⟨jumpWhen_eq_afterJump s.flags.parity s, jumpWhen_eq_afterJump (!s.flags.parity) s⟩⟩

/-- Of two jumps whose tests are opposite, exactly one answers as `jmp` does (R140). -/
theorem exactlyOne_eq_jmp_of_opposite_tests {s : State} {i j : Instr} {taken : Bool}
    (hmar : Claims.marNumber s ≠ s.pc)
    (h : exec i s = .next (Claims.afterJump taken s) ∧ exec j s = .next (Claims.afterJump (!taken) s)) :
    (exec i s = exec .jmp s ∧ exec j s ≠ exec .jmp s) ∨ (exec i s ≠ exec .jmp s ∧ exec j s = exec .jmp s) := by
  obtain ⟨hi, hj⟩ := h
  have hne : Host.Outcome.next (Claims.afterJump false s) ≠ exec .jmp s := fun h =>
    afterJump_false_ne_true hmar (Host.Outcome.next.inj (h.trans (jmpGoesToTheMar.2 s)))
  rw [hi, hj]
  cases taken with
  | true => exact .inl ⟨(jmpGoesToTheMar.2 s).symm, hne⟩
  | false => exact .inr ⟨hne, (jmpGoesToTheMar.2 s).symm⟩

/-- Settles O38: the tests of each pair are opposite by O34 to O37. -/
theorem exactlyOneJumpOfAPairIsTaken : Obligations.ExactlyOneJumpOfAPairIsTaken := by
  intro s hmar p hp
  simp only [List.mem_cons, List.not_mem_nil, or_false] at hp
  rcases hp with rfl | rfl | rfl | rfl
  · exact exactlyOne_eq_jmp_of_opposite_tests hmar (carryJumpsTestTheCarryFlag.2.2 s)
  · exact exactlyOne_eq_jmp_of_opposite_tests hmar (zeroJumpsTestTheZeroFlag.2.2 s)
  · exact exactlyOne_eq_jmp_of_opposite_tests hmar (signJumpsTestTheSignFlag.2.2 s)
  · exact exactlyOne_eq_jmp_of_opposite_tests hmar (parityJumpsTestTheParityFlag.2.2 s)

/-- Settles O39: every jump leaves `afterJump`, which differs from the old state in the pc and the port alone. -/
theorem jumpsWriteOnlyThePc : Obligations.JumpsWriteOnlyThePc := fun _ s h13 h21 =>
  ⟨_, exec_of_jumpCode h13 h21 s, afterJump_pc_cases _ s, rfl, fun _ => rfl, rfl, ⟨fun _ => rfl, fun _ => rfl⟩, rfl⟩

/-- Settles O40: the execute phase writes the two link bytes, and the step runs it at the address after the opcode. -/
theorem callSaveWritesThePcToTwoRegisters : Obligations.CallSaveWritesThePcToTwoRegisters := by
  refine ⟨encodedAt_of_instrOf (by decide) fun _ _ => rfl, fun s => ?_, fun s hcode hlt => ?_⟩
  · exact ⟨_, exec_callSave s, readReg_low_afterCallSave s, readReg_high_afterCallSave s,
      fun _ => readReg_other_afterCallSave s, ⟨fun _ => rfl, fun _ => rfl⟩, rfl, rfl, rfl, rfl⟩
  · have hpc : s.pc ≠ 0xFFFF#16 := by bv_omega
    have hnext : (s.pc + 1#16).toNat = s.pc.toNat + 1 := by bv_omega
    exact ⟨_, step_callSave hcode hpc, hnext, (link_afterCallSave _).trans hnext⟩

end Sys2Proof.Proofs

/-! # Load-immediate and the two accesses to the data store -/

namespace Sys2Proof.Proofs

open Sys2Proof.Machine

/-! ## The increment whose outcome is known (R27) -/

/-- The increment adds one when it starts below 0xFFFF or the parameter says `Wrap`. -/
theorem pcInc_of_noOverflow {mode : PcOverflow} {s : State} (h : s.pc ≠ 0xFFFF#16 ∨ mode = .wrap) :
    pcInc mode s = .next (s.setPc (s.pc + 1#16)) := by
  refine (pcInc_cases mode s).resolve_right ?_
  rintro ⟨hpc, rfl, -⟩
  exact h.elim (· hpc) nofun

/-! ## Load-immediate: its execute phase and its step (R71, R150) -/

theorem exec_loadImmediate_eq (r : RegIndex) (imm : Byte) (s : State) :
    exec (.loadImmediate r imm) s =
      andThen (pcInc Config.pcOverflow s) fun t => continueWith true (writeRegisterOperand r imm t) := rfl

theorem step_eq_andThen (s : State) : step s = andThen (pcInc Config.pcOverflow s) (exec (fetchInstr s)) := rfl

theorem exec_loadImmediate_of_noOverflow (r : RegIndex) (imm : Byte) {s : State}
    (h : s.pc ≠ 0xFFFF#16 ∨ Config.pcOverflow = .wrap) :
    exec (.loadImmediate r imm) s = .next (afterExec (.loadImmediate r imm) s) := by
  rw [exec_loadImmediate_eq, pcInc_of_noOverflow h]
  rfl

theorem exec_loadImmediate_of_overflow (r : RegIndex) (imm : Byte) {s : State} (hpc : s.pc = 0xFFFF#16)
    (hmode : Config.pcOverflow = .fault) : exec (.loadImmediate r imm) s = .fault .pcOverflow := by
  rw [exec_loadImmediate_eq, hmode, pcInc_fault hpc, andThen_fault]

/-- The byte `R * 32 + 22` decodes to a load-immediate of the byte after it (R70, R72). -/
theorem decodeOp_loadImmediateByte {k : Nat} (hk : k < 8) (x : Byte) :
    decodeOp (BitVec.ofNat 8 (k * 32 + 22)) x = .loadImmediate (BitVec.ofNat 8 k) x := by
  have hslot : (BitVec.ofNat 8 k).toNat < 8 := by
    rw [BitVec.toNat_ofNat]
    omega
  rw [← opcodeByte_ofNat hk (by decide), decodeOp_opcodeByte _ _ hslot]
  rfl

/-- A step has two increments here, so it is sure to answer only where neither can overflow. -/
theorem step_loadImmediate_of_noOverflow {s : State} {r : RegIndex} {imm : Byte}
    (hfetch : fetchInstr s = .loadImmediate r imm) (h : s.pc.toNat < 65534 ∨ Config.pcOverflow = .wrap) :
    step s = .next (afterLoadImmediate r imm s) := by
  have hfirst : s.pc ≠ 0xFFFF#16 ∨ Config.pcOverflow = .wrap := h.imp_left fun hlt => by bv_omega
  have hsecond : s.pc + 1#16 ≠ 0xFFFF#16 ∨ Config.pcOverflow = .wrap := h.imp_left fun hlt => by bv_omega
  rw [step_eq_andThen, pcInc_of_noOverflow hfirst, andThen_next, hfetch]
  exact exec_loadImmediate_of_noOverflow r imm hsecond

/-- From 0xFFFF the first increment overflows, from 0xFFFE the second (R172). -/
theorem step_loadImmediate_of_overflow {s : State} {r : RegIndex} {imm : Byte}
    (hfetch : fetchInstr s = .loadImmediate r imm) (hpc : 65534 ≤ s.pc.toNat)
    (hmode : Config.pcOverflow = .fault) : step s = .fault .pcOverflow := by
  by_cases hlast : s.pc = 0xFFFF#16
  · rw [step_eq_andThen, hmode, pcInc_fault hlast, andThen_fault]
  · have hsecond : s.pc + 1#16 = 0xFFFF#16 := by bv_omega
    rw [step_of_pc_ne hlast, hfetch]
    exact exec_loadImmediate_of_overflow r imm hsecond hmode

/-- What a load-immediate leaves, wherever the pc stood: one register write, and the other fields as they were. -/
theorem loadImmediate_frame (r : RegIndex) (imm : Byte) (s : State) (a : Addr) :
    Claims.RegWritten r imm s (afterExec (.loadImmediate r imm) (s.setPc a)) ∧
      Claims.SameStores s (afterExec (.loadImmediate r imm) (s.setPc a)) ∧
      (afterExec (.loadImmediate r imm) (s.setPc a)).acc = s.acc ∧
      (afterExec (.loadImmediate r imm) (s.setPc a)).flags = s.flags ∧
      (afterExec (.loadImmediate r imm) (s.setPc a)).continueOut = true :=
  ⟨regWritten_of_regs_eq rfl, ⟨fun _ => rfl, fun _ => rfl⟩, rfl, rfl, rfl⟩

/-! ## The data store after a store-mem (R52, R151) -/

theorem readData_other_afterExec_storeMem (r : RegIndex) (s : State) {a : Addr} (h : a ≠ marOperand s) :
    (afterExec (.storeMem r) s).readData a = s.readData a :=
  Memory.read_write_other s.data (s.readReg r) h

/-! ## The obligations of the family 43_immediate_and_memory.md -/

/-- Settles O42: the operand byte is fetched at the address after the opcode, and each value of the parameter is one
case where an increment of the step can overflow. -/
theorem loadImmediateStepConsumesTheOperandByte : Obligations.LoadImmediateStepConsumesTheOperandByte := by
  refine ⟨fun _ hk x => decodeOp_loadImmediateByte hk x, fun s k hk hop => ?_⟩
  have hfetch : fetchInstr s = .loadImmediate (BitVec.ofNat 8 k) (s.readProg (s.pc + 1#16)) := by
    rw [fetchInstr, hop, decodeOp_loadImmediateByte hk]
  have hframe := loadImmediate_frame (BitVec.ofNat 8 k) (s.readProg (s.pc + 1#16)) s (s.pc + 1#16)
  refine ⟨fun hlt => ?below, fun hge => ?fromFFFE⟩
  case below =>
    refine ⟨_, step_loadImmediate_of_noOverflow hfetch (.inl hlt), ?_, hframe⟩
    rw [afterLoadImmediate_pc]
    bv_omega
  case fromFFFE =>
    cases hmode : Config.pcOverflow with
    | wrap =>
      refine ⟨_, step_loadImmediate_of_noOverflow hfetch (.inr hmode), ?_, hframe⟩
      rw [afterLoadImmediate_pc]
      bv_omega
    | fault => exact step_loadImmediate_of_overflow hfetch hge hmode

/-- Settles O43: the one data cell written is the one at the MAR, and no other field but the port is new. -/
theorem storeMemWritesTheByteAtTheMar : Obligations.StoreMemWritesTheByteAtTheMar := by
  refine ⟨encodedAt_of_instrOf (by decide) fun _ _ => rfl, fun s r => ?_⟩
  rw [marNumber_eq_marOperand]
  exact ⟨_, exec_of_code_ne (by simp [Instr.code]) s, readData_afterExec_storeMem r s,
    fun _ => readData_other_afterExec_storeMem r s, fun _ => rfl, fun _ => rfl, rfl, rfl, rfl, rfl⟩

/-- Settles O44: the byte written to the register file is read at the MAR of the state before. -/
theorem loadMemReadsTheByteAtTheOldMar : Obligations.LoadMemReadsTheByteAtTheOldMar := by
  refine ⟨encodedAt_of_instrOf (by decide) fun _ _ => rfl, fun s r => ?_⟩
  rw [marNumber_eq_marOperand]
  exact ⟨_, exec_of_code_ne (by simp [Instr.code]) s, regWritten_of_regs_eq rfl, ⟨fun _ => rfl, fun _ => rfl⟩,
    rfl, rfl, rfl, rfl⟩

/-- Settles O41: the phase's own increment is open at 0xFFFF alone, where each value of the parameter is one case. -/
theorem loadImmediateWritesTheOperand : Obligations.LoadImmediateWritesTheOperand := by
  intro s r imm
  have hframe := loadImmediate_frame r imm s s.pc
  refine ⟨fun hne => ?below, fun hlast => ?last⟩
  case below =>
    have hnext : (s.pc + 1#16).toNat = s.pc.toNat + 1 := by bv_omega
    exact ⟨_, exec_loadImmediate_of_noOverflow r imm (.inl hne), hnext, hframe⟩
  case last =>
    cases hmode : Config.pcOverflow with
    | wrap =>
      have hzero : s.pc + 1#16 = 0#16 := by rw [hlast]; rfl
      exact ⟨_, exec_loadImmediate_of_noOverflow r imm (.inr hmode), hzero, hframe⟩
    | fault => exact exec_loadImmediate_of_overflow r imm hlast hmode

end Sys2Proof.Proofs

/-! # Halt and the unused codes, and the port that no step reads -/

namespace Sys2Proof.Proofs

open Sys2Proof.Machine

/-! ## Codes 26 to 31: the port alone is driven (R160, R162 to R166) -/

/-- The execute phase of codes 26 to 31 drives the port and writes nothing else; halt alone drives it low. -/
theorem exec_of_le_code {i : Instr} (h : 26 ≤ i.code.toNat) (s : State) :
    exec i s = .next (s.report (!decide (i = .halt))) := by
  cases i with
  | unused26 | unused27 | unused28 | halt | unused30 | unused31 => rfl
  | _ => simp [Instr.code] at h

/-- Below 0xFFFF the step of codes 26 to 31 is the fetch's increment and the port (R71, C3). -/
theorem step_of_le_codeAtPc {s : State} (hcode : 26 ≤ Claims.codeAtPc s) (hlt : s.pc.toNat < 65535) :
    step s = .next ((s.setPc (BitVec.ofNat 16 (s.pc.toNat + 1))).report (!decide (Claims.codeAtPc s = 29))) := by
  have hpc : s.pc ≠ 0xFFFF#16 := by bv_omega
  have hnext : s.pc + 1#16 = BitVec.ofNat 16 (s.pc.toNat + 1) := by bv_omega
  rw [← fetchInstr_code] at hcode ⊢
  rw [step_of_pc_ne hpc, exec_of_le_code hcode, hnext, decide_eq_decide.2 (code_eq_halt_iff (fetchInstr s))]

/-! ## What the port held before is never read (R161, D10) -/

/-- The increment carries the port along, and answers or faults whatever it holds. -/
theorem pcInc_report (mode : PcOverflow) (s : State) (b : Bool) :
    pcInc mode (s.report b) = andThen (pcInc mode s) fun t => .next (t.report b) := by
  by_cases hpc : s.pc = 0xFFFF#16
  · cases mode with
    | wrap => rw [pcInc_wrap hpc, pcInc_wrap (s := s.report b) hpc]; rfl
    | fault => rw [pcInc_fault hpc, pcInc_fault (s := s.report b) hpc]; rfl
  · rw [pcInc_of_ne hpc, pcInc_of_ne (s := s.report b) hpc]
    rfl

/-- The increment before a phase that does not read the port makes a sequence that does not read it. -/
theorem andThen_pcInc_report {f : State → Result} {b : Bool} (hf : ∀ t, f (t.report b) = f t)
    (mode : PcOverflow) (s : State) : andThen (pcInc mode (s.report b)) f = andThen (pcInc mode s) f := by
  rw [pcInc_report]
  cases pcInc mode s with
  | next t => exact hf t
  | fault r => rfl
  | refused r => rfl

/-- No execute phase reads the port: each ends by driving it anew. -/
theorem exec_report (i : Instr) (s : State) (b : Bool) : exec i (s.report b) = exec i s := by
  cases i with
  | loadImmediate r imm => exact andThen_pcInc_report (fun _ => rfl) Config.pcOverflow s
  | jmp | jmpIfCarry | jmpIfNotCarry | jmpIfZero | jmpIfNotZero | jmpIfSign | jmpIfNotSign | jmpIfParity
  | jmpIfNotParity => exact (jumpWhen_eq _ (s.report b)).trans (jumpWhen_eq _ s).symm
  | _ => rfl

/-- The port is no part of what the fetch reads, so the whole step does not read it either. -/
theorem step_report (s : State) (b : Bool) : step (s.report b) = step s :=
  andThen_pcInc_report (fun t => exec_report (fetchInstr s) t b) Config.pcOverflow s

/-! ## The obligations of the family 44_halt_and_unused.md -/

/-- Settles O50: neither the increment nor any execute phase reads the port. -/
theorem noHaltedLatch : Obligations.NoHaltedLatch := fun s b =>
  ⟨step_report s b, fun i => exec_report i s b⟩

/-- Settles O47: code 29 is the one of codes 26 to 31 that drives the port low. -/
theorem haltReportsAndChangesNothing : Obligations.HaltReportsAndChangesNothing := by
  refine ⟨encodedAt_of_instrOf (by decide) fun _ _ => rfl, exec_of_le_code (i := .halt) (by decide), ?_⟩
  intro s hcode hlt
  have hstep := step_of_le_codeAtPc (by omega) hlt
  rw [hcode] at hstep
  exact hstep

/-- Settles O48: the other five of codes 26 to 31 drive the port high. -/
theorem unusedCodesDoNothing : Obligations.UnusedCodesDoNothing := by
  refine ⟨encodedAt_of_instrOf (by decide) fun _ _ => rfl, encodedAt_of_instrOf (by decide) fun _ _ => rfl,
    encodedAt_of_instrOf (by decide) fun _ _ => rfl, encodedAt_of_instrOf (by decide) fun _ _ => rfl,
    encodedAt_of_instrOf (by decide) fun _ _ => rfl, fun s => ?exec, fun s hcode hlt => ?step⟩
  case exec =>
    exact ⟨exec_of_le_code (i := .unused26) (by decide) s, exec_of_le_code (i := .unused27) (by decide) s,
      exec_of_le_code (i := .unused28) (by decide) s, exec_of_le_code (i := .unused30) (by decide) s,
      exec_of_le_code (i := .unused31) (by decide) s⟩
  case step =>
    simp only [List.mem_cons, List.not_mem_nil, or_false] at hcode
    have hstep := step_of_le_codeAtPc (by omega) hlt
    rw [decide_eq_false (by omega)] at hstep
    exact hstep

end Sys2Proof.Proofs

/-! # The one way a step stops -/

namespace Sys2Proof.Proofs

open Sys2Proof.Machine

/-! ## Where an increment of the step starts at 0xFFFF (R172, R174) -/

/-- The step increments the pc from 0xFFFF: at the fetch, or at the operand of code 22. -/
def PcOverflows (s : State) : Prop :=
  s.pc = 0xFFFF#16 ∨ (s.pc = 0xFFFE#16 ∧ Claims.codeAtPc s = 22)

theorem not_pcOverflows_of_lt {s : State} (h : s.pc.toNat < 65534) : ¬ PcOverflows s := by
  rintro (hpc | ⟨hpc, -⟩) <;> simp [hpc] at h

/-! ## What a step can answer -/

/-- With `Fault`, an increment from 0xFFFF stops the step. -/
theorem step_of_pcOverflows {s : State} (h : PcOverflows s) (hmode : Config.pcOverflow = .fault) :
    step s = .fault .pcOverflow := by
  rcases h with hlast | ⟨hpc, hcode⟩
  · rw [step_eq_andThen, hmode, pcInc_fault hlast, andThen_fault]
  · have h22 : (fetchInstr s).code = 22#5 := BitVec.eq_of_toNat_eq ((fetchInstr_code s).trans hcode)
    obtain ⟨r, imm, hfetch⟩ := exists_loadImmediate_of_code h22
    exact step_loadImmediate_of_overflow hfetch (by rw [hpc]; decide) hmode

/-- Everything a step can do: it runs the fetched instruction to its end, or one of its increments overflows with
`Fault` (R71, R172). -/
theorem step_cases (s : State) :
    step s = .next (afterExec (fetchInstr s) (s.setPc (s.pc + 1#16))) ∨
      (Config.pcOverflow = .fault ∧ PcOverflows s ∧ step s = .fault .pcOverflow) := by
  rw [step_eq_andThen]
  rcases pcInc_cases Config.pcOverflow s with hinc | ⟨hlast, hmode, hinc⟩
  · rw [hinc, andThen_next]
    refine (exec_cases (fetchInstr s) (s.setPc (s.pc + 1#16))).imp_right ?_
    rintro ⟨hcode, hnext : s.pc + 1#16 = 0xFFFF#16, hmode, hexec⟩
    have hpc : s.pc = 0xFFFE#16 := by bv_omega
    exact ⟨hmode, .inr ⟨hpc, (fetchInstr_code s).symm.trans (congrArg BitVec.toNat hcode)⟩, hexec⟩
  · exact .inr ⟨hmode, .inl hlast, by rw [hinc, andThen_fault]⟩

theorem step_ne_refused (s : State) (r : Refusal) : step s ≠ .refused r := by
  rcases step_cases s with hnext | ⟨-, -, hfault⟩
  · simp [hnext]
  · simp [hfault]

theorem step_eq_fault_iff (s : State) (r : Fault) :
    step s = .fault r ↔ r = .pcOverflow ∧ Config.pcOverflow = .fault ∧ PcOverflows s := by
  constructor
  · intro h
    rcases step_cases s with hnext | ⟨hmode, hover, hfault⟩
    · simp [hnext] at h
    · exact ⟨Host.Outcome.fault.inj (h.symm.trans hfault), hmode, hover⟩
  · rintro ⟨rfl, hmode, hover⟩
    exact step_of_pcOverflows hover hmode

/-- A step none of whose increments overflows answers a next state. -/
theorem stepSafe_of_not_pcOverflows {s : State} (h : ¬ PcOverflows s) : StepSafe s :=
  ⟨_, (step_cases s).resolve_right fun ⟨_, hover, _⟩ => h hover⟩

/-! ## The obligation of the family 60_exceptions.md -/

/-- Settles O51: a step runs to its end or overflows with `Fault`, and below 0xFFFE no increment overflows. -/
theorem onlyPcOverflowStopsAStep : Obligations.OnlyPcOverflowStopsAStep := fun s =>
  ⟨step_ne_refused s, step_eq_fault_iff s, fun hlt => stepSafe_of_not_pcOverflows (not_pcOverflows_of_lt hlt)⟩

end Sys2Proof.Proofs

/-! # What an image leaves at construction, runs to their end, and a write of the MAR before its next user -/

namespace Sys2Proof.Proofs

open Sys2Proof.Machine

/-! ## An image longer than the store, and addresses past its end (R191, R198) -/

theorem getD_take_of_lt {image : List Byte} {n a : Nat} (h : a < n) :
    (image.take n).getD a 0x00#8 = image.getD a 0x00#8 := by
  rw [List.getD_eq_getElem?_getD, List.getD_eq_getElem?_getD, List.getElem?_take_of_lt h]

theorem readProg_construct_take (init : InitValues) (image : List Byte) (a : Addr) :
    (construct init (image.take 65536)).readProg a = (construct init image).readProg a := by
  rw [readProg_construct, readProg_construct, getD_take_of_lt a.isLt]

/-- The bytes past the store's size leave nothing: both stores are canonical and read alike. -/
theorem ofImage_take (image : List Byte) : Memory.ofImage image = Memory.ofImage (image.take 65536) :=
  canonicalStoresWithEqualBytesAreEqual _ _ (Memory.wf_ofImage _) (Memory.wf_ofImage _)
    fun a => (readProg_construct_take ⟨0#8, State.reset.flags⟩ image a).symm

/-- An opcode byte 0x00, the padding of an image, is `add r0` whatever follows it (R198). -/
theorem fetchInstr_of_readProg_eq_zero {s : State} (h : s.readProg s.pc = 0x00#8) : fetchInstr s = .add 0#8 := by
  rw [fetchInstr, h]
  rfl

/-- No step writes the program store, so past the image the padding is read at any point of a run (R59, R191). -/
theorem readProg_of_length_le {k : Nat} {init : InitValues} {image : List Byte} {s : State}
    (hrun : stepMany k (construct init image) = .next s) {a : Addr} (ha : image.length ≤ a.toNat) :
    s.readProg a = 0x00#8 := by
  rw [programStoreIsTheImageForTheWholeRun.2 k init image s hrun, List.getD_eq_default _ _ ha]

/-! ## The step of a halt (R160, C3) -/

theorem fetchInstr_eq_halt_iff (s : State) : fetchInstr s = .halt ↔ Claims.codeAtPc s = 29 := by
  rw [← fetchInstr_code, code_eq_halt_iff]

theorem step_pc_of_halt {s t : State} (h : step s = .next t) (hcode : Claims.codeAtPc s = 29) :
    t.pc = s.pc + 1#16 := by
  rw [pcAfterEveryStep s t h, Claims.pcAfter, (fetchInstr_eq_halt_iff s).2 hcode]

/-! ## Runs to their end, one step at a time (R196) -/

theorem stepMany_succ_of_step {s u : State} (h : step s = .next u) (k : Nat) :
    stepMany (k + 1) s = stepMany k u := by
  rw [stepMany, h, andThen_next]

theorem runToEnd_succ_of_continue {s u : State} (h : step s = .next u) (hport : u.continueOut = true) (k : Nat) :
    runToEnd (k + 1) s = runToEnd k u := by
  simp only [runToEnd, h, if_pos hport]

theorem runToEnd_succ_of_stop {s u : State} (h : step s = .next u) (hport : u.continueOut = false) (k : Nat) :
    runToEnd (k + 1) s = .halted u := by
  simp [runToEnd, h, hport]

/-- A run that ends by a halt ends so at its first step, or goes on from a first step that did not report one. -/
theorem runToEnd_succ_eq_halted {k : Nat} {s t : State} (h : runToEnd (k + 1) s = .halted t) :
    (step s = .next t ∧ t.continueOut = false) ∨
      ∃ u, step s = .next u ∧ u.continueOut = true ∧ runToEnd k u = .halted t := by
  cases hstep : step s with
  | next u =>
    cases hport : u.continueOut with
    | true =>
      rw [runToEnd_succ_of_continue hstep hport] at h
      exact .inr ⟨u, rfl, hport, h⟩
    | false =>
      rw [runToEnd_succ_of_stop hstep hport] at h
      cases h
      exact .inl ⟨rfl, hport⟩
  | fault r => simp [runToEnd, hstep] at h
  | refused r => simp [runToEnd, hstep] at h

theorem runToEnd_halted_add {k : Nat} {s t : State} (h : runToEnd k s = .halted t) (n : Nat) :
    runToEnd (k + n) s = .halted t := by
  induction k generalizing s with
  | zero => cases h
  | succ k ih =>
    rw [Nat.succ_add]
    rcases runToEnd_succ_eq_halted h with ⟨hstep, hport⟩ | ⟨u, hstep, hport, hrest⟩
    · exact runToEnd_succ_of_stop hstep hport _
    · rw [runToEnd_succ_of_continue hstep hport, ih hrest]

/-- The run from `s` meets its first code 29 after `j` steps, in `u`. -/
def FirstHaltAt (j : Nat) (s u : State) : Prop :=
  stepMany j s = .next u ∧ Claims.codeAtPc u = 29 ∧
    ∀ (m : Nat) (v : State), m < j → stepMany m s = .next v → Claims.codeAtPc v ≠ 29

theorem firstHaltAt_zero {s : State} (h : Claims.codeAtPc s = 29) : FirstHaltAt 0 s s :=
  ⟨rfl, h, fun _ _ hlt => absurd hlt (Nat.not_lt_zero _)⟩

/-- A step over another code than 29 delays the first halt by one. -/
theorem firstHaltAt_succ {j : Nat} {s u v : State} (hcode : Claims.codeAtPc s ≠ 29) (hstep : step s = .next u)
    (h : FirstHaltAt j u v) : FirstHaltAt (j + 1) s v := by
  obtain ⟨hrun, hhalt, hearlier⟩ := h
  refine ⟨(stepMany_succ_of_step hstep j).trans hrun, hhalt, fun m w hm hw => ?_⟩
  cases m with
  | zero =>
    cases hw
    exact hcode
  | succ m =>
    rw [stepMany_succ_of_step hstep] at hw
    exact hearlier m w (Nat.lt_of_succ_lt_succ hm) hw

/-- A run that ends by a halt ends one step after its first code 29. -/
theorem exists_firstHaltAt_of_halted {k : Nat} {s t : State} (h : runToEnd k s = .halted t) :
    ∃ j u, j < k ∧ FirstHaltAt j s u ∧ step u = .next t := by
  induction k generalizing s with
  | zero => cases h
  | succ k ih =>
    rcases runToEnd_succ_eq_halted h with ⟨hstep, hport⟩ | ⟨u, hstep, hport, hrest⟩
    · have hcode : Claims.codeAtPc s = 29 := (onlyHaltReportsFalse s t hstep).1 hport
      exact ⟨0, s, Nat.succ_pos k, firstHaltAt_zero hcode, hstep⟩
    · have hcode : Claims.codeAtPc s ≠ 29 := fun e => by simp [(onlyHaltReportsFalse s u hstep).2 e] at hport
      obtain ⟨j, v, hj, hfirst, hend⟩ := ih hrest
      exact ⟨j + 1, v, Nat.succ_lt_succ hj, firstHaltAt_succ hcode hstep hfirst, hend⟩

/-! ## The three users of the MAR (R30, R200) -/

/-- A jmp, a store-mem and a load-mem from one state all take their address from that state's MAR. -/
theorem marUsers_at_marNumber (t : State) :
    (∃ u, exec .jmp t = .next u ∧ u.pc = Claims.marNumber t) ∧
      (∀ q, ∃ u, exec (.storeMem q) t = .next u ∧ u.readData (Claims.marNumber t) = t.readReg q) ∧
      ∀ q, q.toNat < 8 → ∃ u, exec (.loadMem q) t = .next u ∧ u.readReg q = t.readData (Claims.marNumber t) := by
  refine ⟨⟨_, jmpGoesToTheMar.2 t, rfl⟩, fun q => ?store, fun q hq => ?load⟩
  case store =>
    obtain ⟨u, hexec, hwritten, -⟩ := storeMemWritesTheByteAtTheMar.2 t q
    exact ⟨u, hexec, hwritten⟩
  case load =>
    obtain ⟨u, hexec, hwritten, -⟩ := loadMemReadsTheByteAtTheOldMar.2 t q
    exact ⟨u, hexec, readReg_of_regWritten_same hwritten hq⟩

theorem regWritten_of_exec_storeAcc {s t : State} {r : RegIndex} (h : exec (.storeAcc r) s = .next t) :
    Claims.RegWritten r s.acc s t :=
  regWritten_of_regs_eq (congrArg State.regs (exec_eq_next h))

/-- A store-acc into either half of the MAR puts the accumulator there and leaves the other half. -/
theorem marNumber_toNat_of_exec_storeAcc {s t : State} {high : Bool}
    (h : exec (.storeAcc (if high then 7#8 else 6#8)) s = .next t) :
    (Claims.marNumber t).toNat =
      (if high then s.acc.toNat else (s.readReg 7#8).toNat) * 256 +
        (if high then (s.readReg 6#8).toNat else s.acc.toNat) := by
  have hwritten := regWritten_of_exec_storeAcc h
  cases high with
  | true => exact marNumber_toNat_of_highWritten hwritten
  | false => exact marNumber_toNat_of_lowWritten hwritten

/-! ## The obligations of the family 70_reset_and_hazards.md -/

/-- Settles O57: the first step to report a halt is the step of the first code 29, and the run stops there. -/
theorem runEndsAtTheFirstHalt : Obligations.RunEndsAtTheFirstHalt := by
  intro k s t h
  obtain ⟨j, u, hj, ⟨hrun, hcode, hearlier⟩, hend⟩ := exists_firstHaltAt_of_halted h
  exact ⟨runToEnd_halted_add h, j, u, hj, hrun, hend, hcode, step_pc_of_halt hend hcode, hearlier⟩

/-- Settles O14: the program store reads as the image, and only its first 65536 bytes are read. -/
theorem imageIsLoadedPaddedAndTruncated : Obligations.ImageIsLoadedPaddedAndTruncated := fun init image =>
  ⟨readProg_construct init image, State.ext_fields rfl rfl rfl rfl (ofImage_take image) rfl rfl⟩

/-- Settles O46: the address is the MAR after the write, and a store-acc leaves the data store as it was. -/
theorem marWritesReachTheNextUser : Obligations.MarWritesReachTheNextUser := by
  intro s t high h
  obtain ⟨hjmp, hstore, hload⟩ := marUsers_at_marNumber t
  have hdata : t.readData (Claims.marNumber t) = s.readData (Claims.marNumber t) :=
    (nonStoringInstructionsKeepEveryByte _ s t h).2 nofun _
  rw [hdata] at hload
  exact ⟨Claims.marNumber t, marNumber_toNat_of_exec_storeAcc h, hjmp, hstore, hload⟩

/-- Settles O58: the padding byte decodes to `add r0`, which always answers. -/
theorem runningOffTheImageAddsRegisterZero : Obligations.RunningOffTheImageAddsRegisterZero := by
  intro k init image s hrun hlen hlt
  have hpc : s.pc ≠ 0xFFFF#16 := by bv_omega
  have hstep : step s = exec (.add 0#8) (s.setPc (s.pc + 1#16)) := by
    rw [step_of_pc_ne hpc, fetchInstr_of_readProg_eq_zero (readProg_of_length_le hrun hlen)]
  exact ⟨hstep, _, hstep.trans (exec_of_code_ne (by decide) _)⟩

end Sys2Proof.Proofs

/-! # The written-out decode table -/

namespace Sys2Proof.Proofs

open Sys2Proof.Machine

/-! ## The obligation of the family other -/

/-- Settles O6: each byte of the table is `R * 32 + I`, one of the eight bytes of its row of the opcode map. -/
theorem writtenOutBytesDecode : Obligations.WrittenOutBytesDecode := by
  intro x
  obtain ⟨hadd, -⟩ := addStoresSumAndCarry
  obtain ⟨hsub, -⟩ := subStoresDifferenceAndSetsCarry
  obtain ⟨hreserved, -⟩ := reservedSevenStoresZero
  obtain ⟨hjmp, -⟩ := jmpGoesToTheMar
  obtain ⟨himm, -⟩ := loadImmediateStepConsumesTheOperandByte
  obtain ⟨hcall, -⟩ := callSaveWritesThePcToTwoRegisters
  obtain ⟨hhalt, -⟩ := haltReportsAndChangesNothing
  obtain ⟨-, -, -, -, hunused, -⟩ := unusedCodesDoNothing
  exact ⟨hadd 0 (by decide) x, hadd 1 (by decide) x, hsub 7 (by decide) x, himm 0 (by decide) x,
    himm 6 (by decide) x, himm 7 (by decide) x, hjmp 3 (by decide) x, hhalt 7 (by decide) x,
    hreserved 0 (by decide) x, hunused 7 (by decide) x, hcall 4 (by decide) x⟩

end Sys2Proof.Proofs
